-- ==== Sys2Proof/Word.lean ====
section
/-! DEFINITION. The words of the F90X-PE protocol engine (spec/00_scope.md R11, R12) and the names of
what can go wrong (spec/60_exceptions.md R190, R191). -/

namespace Sys2Proof

/-- A byte, 0..255 (R11). -/
abbrev Byte := BitVec 8

/-- A u16, 0..65535 (R11). -/
abbrev Half := BitVec 16

/-- Sub-kinds of `FrameError` (R106, R191). -/
inductive FrameErr where
  | tooShort
  | badStart
  | badEnd
  | badChecksum
  deriving DecidableEq, Repr

/-- The three fixed responses; a `ValidationError` carries which one failed (R135, R191). -/
inductive FixedResponse where
  | ok
  | unitId
  | eotEcho
  deriving DecidableEq, Repr

/-- The error kinds of R190, codes 1 to 9 in this order. -/
inductive ErrKind where
  | transportError
  | frameError (k : FrameErr)
  | validationError (r : FixedResponse)
  | encodingError
  | rangeError
  | bcdError
  | settingError
  | stateError
  | illegalOp
  deriving DecidableEq, Repr

end Sys2Proof
end

