-- ==== Sys2Proof/Config.lean ====
section
/-! DEFINITION. What does not change while the machine runs: the constants of spec/00_scope.md R8 and
R10, the open parameters of R9, and the free values (the spec's "draws", R19), which have no body so
that nothing can be proved of them. -/

namespace Sys2Proof

/-- The two line speeds `BAUD` can hold (R32, R64). -/
inductive LineSpeed where
  | default
  | fast
  deriving DecidableEq, Repr, Inhabited

/-- What the transport answers to one primitive (R60 to R64): success, with the bytes it hands over,
or `TransportError`. -/
inductive Answer where
  | ok (bytes : List Byte)
  | err
  deriving DecidableEq, Repr, Inhabited

/-- A byte sequence that is not empty by its form: the constraint R9 puts on the two open commands. -/
structure OpenCommand where
  first : Byte
  rest : List Byte
  deriving DecidableEq, Repr, Inhabited

/-- The bytes of an open command, index 0 first. -/
def OpenCommand.bytes (c : OpenCommand) : List Byte := c.first :: c.rest

/-- The parity choices of a UART character (the open parameter `UART_FORMAT` of R9). DESIGN CHOICE: these
five; R9 constrains none (log 10). -/
inductive Parity where
  | none
  | even
  | odd
  | mark
  | space
  deriving DecidableEq, Repr, Inhabited

/-- The open parameter `UART_FORMAT` of R9: "data bits, parity, stop bits, bit order". DESIGN CHOICE: whole
data bits, a parity of the five kinds, and stop bits counted in half bits, so that 1.5 is a value; R9
gives the parameter no constraint (log 10). -/
structure UartFormat where
  dataBits : Nat
  parity : Parity
  stopHalfBits : Nat
  leastSignificantFirst : Bool
  deriving DecidableEq, Repr, Inhabited

namespace Config

/-! ### Constants fixed by the source (R8) -/

def STX : Byte := 0x02
def ETX : Byte := 0x03
def CHK_MOD : Nat := 255
def MIN_FRAME : Nat := 4
def SOH : Byte := 0x01
def CMD_CLASS : Byte := 0x20
def OPC_READ : Byte := 0x80
def OPC_WRITE : Byte := 0x81
def OPC_SHOOT : Byte := 0x85
def OPC_FOCUS : Byte := 0x86
def WAKEUP_CMD : List Byte := [0x00]
def INQUIRY_CMD : List Byte := [0x53, 0x31, 0x30, 0x30, 0x30, 0x05]
def OK_RESP : List Byte := [0x06, 0x00]
def UNIT_ID_RESP : List Byte :=
  [0x31, 0x30, 0x32, 0x30, 0x46, 0x39, 0x30, 0x58, 0x2F, 0x4E, 0x39, 0x30, 0x53, 0x00, 0x03, 0x06]
def EOT_MARK : List Byte := [0x04, 0x04]
def SETTLE_MS : Nat := 200
def BAUD_DEFAULT : Nat := 1200
def BAUD_FAST : Nat := 9600
/-- The transport's own timeout; the block only sees a read that failed (R203, R233). -/
def T_TIMEOUT_MS : Nat := 2000
def ADDR_RING : Half := 0xFD00
def ADDR_MH_SETTING : Half := 0xFD40
def ADDR_MH_ADDRS : Half := 0xFD42
def WRITE_MAX : Nat := 255
/-- R10. -/
def PAYLOAD_MAX : Nat := 255

end Config

/-- The op code of an open command of the `0x01 0x20` family: its third byte, which "selects the command"
(R87). A command outside the family has none (log 10, DEDUCED). -/
def OpenCommand.opCode (c : OpenCommand) : Option Byte :=
  if c.bytes.take 2 = [Config.SOH, Config.CMD_CLASS] then c.bytes[2]? else none

/-- The op codes of the four commands of the `0x01 0x20` family (R87). -/
def Config.familyOpCodes : List Byte :=
  [Config.OPC_READ, Config.OPC_WRITE, Config.OPC_SHOOT, Config.OPC_FOCUS]

/-- What `MEMO_INFO_CMD` can be: not empty, and with a "distinct op code", "none of `0x80`, `0x81`, `0x85`,
`0x86`" (R9, R122). The field values here only show that there is such a command. -/
structure MemoInfoCommand where
  command : OpenCommand := ⟨Config.SOH, []⟩
  distinctOpCode : ∀ b ∈ command.opCode, b ∉ Config.familyOpCodes := by decide
  deriving Inhabited

namespace Config

/-! ### Open parameters (R9, log 10): every claim holds for every value of them -/

/-- `BAUD_UP_CMD`: "fixed, non-empty, does not depend on any register" (R9, R123). -/
opaque baudUpCmd : OpenCommand

/-- `MEMO_INFO_CMD`: "fixed, non-empty, does not depend on any register", with a "distinct op code" (R9,
R122). -/
opaque memoInfo : MemoInfoCommand

/-- The bytes of `MEMO_INFO_CMD`. -/
def memoInfoCmd : OpenCommand := memoInfo.command

/-- `TELEM_SPACE`: the `memory_space` of the three telemetry reads (R9, R58). -/
opaque telemSpace : Byte

/-- `UART_FORMAT` (R9, R54): no rule depends on it. -/
opaque uartFormat : UartFormat

/-- One less than `CLK_HZ`, a positive natural (R9, R203): no rule depends on it. -/
opaque clkHzPred : Nat

/-- `CLK_HZ` (R9). -/
def clkHz : Nat := clkHzPred + 1

/-! `HOST_BUS` of R9, "the signal-level protocol by which the host reads and writes the registers", with
the way reset is driven (R220). DESIGN CHOICE: for each access, by register number, the levels the host's
wires take one after the other; R9 gives the parameter no constraint and no rule depends on it (log 10). -/

opaque hostBusWrite : Nat → Half → List (List Bool)
opaque hostBusRead : Nat → List (List Bool)
opaque hostBusReset : List (List Bool)

/-! ### Free values (R19 "draw", log 1): the argument is the draw's number, the counter `State.draws` -/

opaque freeByte : Nat → Byte
opaque freeHalf : Nat → Half
opaque freeSetting : Nat → BitVec 2
opaque freeBpf : Nat → BitVec 3
opaque freeSpeed : Nat → LineSpeed
/-- The oracle past the listed answers (R61, log 2). -/
opaque freeAnswer : Nat → Answer

end Config

end Sys2Proof
end

