-- ==== Sys2Proof/Machine/Codec.lean ====
section
/-! DEFINITION. The Packet Codec (spec/40_packet_codec.md) and the byte-order helpers of the wire
formats (spec/20_memory.md R52, R53). Pure functions: no state, no event. -/

namespace Sys2Proof.Machine

/-- `high(a)` = `a[15:8]` (R12). -/
def highByte (a : Half) : Byte := a.extractLsb' 8 8

/-- `low(a)` = `a[7:0]` (R12). -/
def lowByte (a : Half) : Byte := a.extractLsb' 0 8

/-- The u16 with the given high and low bytes. -/
def joinBytes (hi lo : Byte) : Half := hi ++ lo

/-- `chk_step(acc, b) = (acc + b) mod 255`, the sum formed exactly (R100). -/
def chkStep (acc : Nat) (b : Byte) : Nat := (acc + b.toNat) % Config.CHK_MOD

/-- The accumulator after every payload byte (R101). -/
def checksumAcc (p : List Byte) : Nat := p.foldl chkStep 0

/-- `checksum(p)`: the incremental form, reduced at each step (R101). -/
def checksum (p : List Byte) : Byte := BitVec.ofNat 8 (checksumAcc p)

/-- One accumulation step as R111 builds it: an 8-bit accumulator, a 9-bit adder, and one subtraction
of 255 when the sum is 255 or more. -/
def chkStepDatapath (acc : Byte) (b : Byte) : Byte :=
  let sum : BitVec 9 := acc.setWidth 9 + b.setWidth 9
  if 255 ≤ sum.toNat then (sum - 255#9).setWidth 8 else sum.setWidth 8

/-- The checksum computed byte by byte on the datapath of R111. -/
def checksumDatapath (p : List Byte) : Byte := p.foldl chkStepDatapath 0

/-- `serialize(p) = [0x02] ++ p ++ [checksum(p)] ++ [0x03]` (R104). -/
def serialize (p : List Byte) : List Byte :=
  [Config.STX] ++ p ++ [checksum p] ++ [Config.ETX]

/-- The subsequence `s[i..j)` (R13). -/
def slice (s : List Byte) (i j : Nat) : List Byte := (s.take j).drop i

/-- `deserialize(f)`: the four checks in the order of R106, then the payload. -/
def deserialize (f : List Byte) : Except FrameErr (List Byte) :=
  let L := f.length
  if L < Config.MIN_FRAME then .error .tooShort
  else if f[0]? ≠ some Config.STX then .error .badStart
  else if f[L - 1]? ≠ some Config.ETX then .error .badEnd
  else if some (checksum (slice f 1 (L - 2))) ≠ f[L - 2]? then .error .badChecksum
  else .ok (slice f 1 (L - 2))

end Sys2Proof.Machine
end

