-- ==== Sys2Proof/Syntax.lean ====
section
/-! DEFINITION. The instructions: one constructor for each row of spec/opcode_table.json. -/

namespace Sys2Proof

/-- The rows of the opcode table: twelve host operations (R90), nine wire commands to the device
(R76 to R85, R94), three fixed responses (R82 to R84) and the framed data packet (R81). -/
inductive Instr where
  /-- START, `OP` = 0x01 (R143). -/
  | start
  /-- UPGRADE, `OP` = 0x02 (R145). -/
  | upgrade
  /-- END_FAST, `OP` = 0x03 (R147). -/
  | endFast
  /-- CLOSE, `OP` = 0x04 (R148). -/
  | close
  /-- FOCUS, `OP` = 0x10 (R156). -/
  | focus
  /-- SHOOT, `OP` = 0x11 (R157). -/
  | shoot
  /-- READ_MEM, `OP` = 0x12 (R158). -/
  | readMem
  /-- WRITE_MEM, `OP` = 0x13 (R160). -/
  | writeMem
  /-- READ_MEMO_INFO, `OP` = 0x14 (R163). -/
  | readMemoInfo
  /-- GET_RING_ADDRS, `OP` = 0x20 (R177). -/
  | getRingAddrs
  /-- GET_MH_ADDRS, `OP` = 0x21 (R178). -/
  | getMhAddrs
  /-- GET_MH_SETTING, `OP` = 0x22 (R179). -/
  | getMhSetting
  /-- Wakeup, format `W1` (R77, R116). -/
  | wakeup
  /-- UnitInquiry, format `INQ6` (R78, R117). -/
  | unitInquiry
  /-- Focus, format `CMD9` (R79, R118). -/
  | cmdFocus
  /-- Shoot, format `CMD9` (R79, R119). -/
  | cmdShoot
  /-- ReadMemory, format `CMD9` (R79, R120). -/
  | readMemory (space : Byte) (address : Half) (length : Byte)
  /-- WriteToMemory, format `WR` (R80, R121): the header, then the packet of `values`. -/
  | writeToMemory (address : Half) (values : List Byte)
  /-- Eot, format `EOT2`, block to device (R82, R124). -/
  | eot
  /-- BaudUp, format `PARAM` (R85, R123). -/
  | baudUp
  /-- ReadMemoHolderInfo, format `PARAM` (R85, R122). -/
  | readMemoHolderInfo
  /-- OkResponse, format `OK2`, device to block (R83, R131). -/
  | okResponse
  /-- UnitIdResponse, format `UID16`, device to block (R84, R132). -/
  | unitIdResponse
  /-- EotEcho, format `EOT2`, device to block (R82, R133). -/
  | eotEcho
  /-- DataPacket, format `PKT`, device to block (R81, R106, R134). -/
  | dataPacket (payload : List Byte)
  deriving DecidableEq, Repr

end Sys2Proof
end

