-- ==== Sys2Proof/WellFormed.lean ====
section
/-! DEFINITION. Which instructions have an encoding that a receiver accepts. -/

namespace Sys2Proof

/-- `values` fits the length byte of `WRH8` (R80, R121); a received packet has 1 to 255 payload bytes
(R76, R107). Every other operand fits its field by its type. -/
def Instr.wellFormed : Instr → Bool
  | .start => true
  | .upgrade => true
  | .endFast => true
  | .close => true
  | .focus => true
  | .shoot => true
  | .readMem => true
  | .writeMem => true
  | .readMemoInfo => true
  | .getRingAddrs => true
  | .getMhAddrs => true
  | .getMhSetting => true
  | .wakeup => true
  | .unitInquiry => true
  | .cmdFocus => true
  | .cmdShoot => true
  | .readMemory _ _ _ => true
  | .writeToMemory _ values => decide (values.length ≤ Config.WRITE_MAX)
  | .eot => true
  | .baudUp => true
  | .readMemoHolderInfo => true
  | .okResponse => true
  | .unitIdResponse => true
  | .eotEcho => true
  | .dataPacket payload => decide (1 ≤ payload.length ∧ payload.length ≤ Config.PAYLOAD_MAX)

end Sys2Proof
end

