-- ==== Sys2Proof/Decode.lean ====
section
/-! DEFINITION. Decoding bytes into instructions, total, rejecting by name; and after it the encoder of
spec/41_command_encoder.md. The wire formats are those of spec/30_encoding.md R75 to R85, the host
codes those of R90. -/

namespace Sys2Proof

open Machine

/-- Where bytes stand. `Eot` and `EotEcho` have the same bytes (R82) and `0x00` is `Wakeup` on the line
and illegal in `OP` (R91), so bytes mean nothing without their port. -/
inductive Port where
  /-- The value written to `OP` (R90). -/
  | hostOp
  /-- Block to device (R76). -/
  | toDevice
  /-- Device to block (R76). -/
  | fromDevice
  deriving DecidableEq, Repr

/-- Why bytes are no instruction. -/
inductive DecodeError where
  /-- An `OP` value that is no operation's code (R91). -/
  | illegalOp
  /-- Bytes that are none of the command formats (R88). -/
  | notACommand
  /-- The `0x01 0x20` family with an op code the block never sends (R88). -/
  | unknownOpc
  /-- A known op code with a fixed byte of its format wrong, or the wrong length (R79, R80). -/
  | badFormat
  /-- Received bytes that are no fixed response and no acceptable frame (R88, R106). -/
  | frame (k : FrameErr)
  /-- A frame with more than 255 payload bytes, which the block never reads (R10, R76). -/
  | tooLong
  deriving DecidableEq, Repr

/-- The host operation codes (R90). -/
def opTable : List (Byte × Instr) :=
  [ (0x01, .start), (0x02, .upgrade), (0x03, .endFast), (0x04, .close),
    (0x10, .focus), (0x11, .shoot), (0x12, .readMem), (0x13, .writeMem), (0x14, .readMemoInfo),
    (0x20, .getRingAddrs), (0x21, .getMhAddrs), (0x22, .getMhSetting) ]

/-- All 8 bits of `OP` are op code (R90); every other value is illegal (R91). -/
def decodeOp (v : Byte) : Except DecodeError Instr :=
  match opTable.lookup v with
  | some i => .ok i
  | none => .error .illegalOp

/-- The tail of a `WR` command after its 8-byte header: one `PKT` of exactly `n` payload bytes (R80). -/
def decodeWriteTail (address : Half) (n : Byte) (tail : List Byte) : Except DecodeError Instr :=
  let values := slice tail 1 (n.toNat + 1)
  if values.length = n.toNat ∧ tail = serialize values then .ok (.writeToMemory address values)
  else .error .badFormat

/-- The `0x01 0x20` family by its third byte (R79, R80, R87). -/
def decodeFamily (opc space hi lo zero len : Byte) (tail : List Byte) : Except DecodeError Instr :=
  if opc = Config.OPC_READ then
    if zero = 0 ∧ tail = [Config.ETX] then .ok (.readMemory space (joinBytes hi lo) len)
    else .error .badFormat
  else if opc = Config.OPC_WRITE then
    if zero = 0 ∧ space = 0 then decodeWriteTail (joinBytes hi lo) len tail
    else .error .badFormat
  else if opc = Config.OPC_SHOOT then
    if [space, hi, lo, zero, len] = [0, 0, 0, 0, 0] ∧ tail = [Config.ETX] then .ok .cmdShoot
    else .error .badFormat
  else if opc = Config.OPC_FOCUS then
    if [space, hi, lo, zero, len] = [0, 0, 0, 0, 0] ∧ tail = [Config.ETX] then .ok .cmdFocus
    else .error .badFormat
  else .error .unknownOpc

/-- A whole command whose bytes the source fixes (R77 to R82). -/
def decodeFixedCommand (bs : List Byte) : Except DecodeError Instr :=
  if bs = Config.WAKEUP_CMD then .ok .wakeup
  else if bs = Config.INQUIRY_CMD then .ok .unitInquiry
  else if bs = Config.EOT_MARK then .ok .eot
  else
    match bs with
    | soh :: cls :: opc :: space :: hi :: lo :: zero :: len :: tail =>
      if soh = Config.SOH ∧ cls = Config.CMD_CLASS then decodeFamily opc space hi lo zero len tail
      else .error .notACommand
    | _ => .error .notACommand

/-- A whole command. The formats the source fixes come first, then the two open commands (R85, log 10). -/
def decodeCommand (bs : List Byte) : Except DecodeError Instr :=
  match decodeFixedCommand bs with
  | .ok i => .ok i
  | .error e =>
    if bs = Config.baudUpCmd.bytes then .ok .baudUp
    else if bs = Config.memoInfoCmd.bytes then .ok .readMemoHolderInfo
    else .error e

/-- The bytes one read returned, whole (R130): a fixed response or an acceptable frame. -/
def decodeResponse (f : List Byte) : Except DecodeError Instr :=
  if f = Config.OK_RESP then .ok .okResponse
  else if f = Config.EOT_MARK then .ok .eotEcho
  else if f = Config.UNIT_ID_RESP then .ok .unitIdResponse
  else
    match deserialize f with
    | .ok p => if p.length ≤ Config.PAYLOAD_MAX then .ok (.dataPacket p) else .error .tooLong
    | .error k => .error (.frame k)

/-- Decoding, total on any bytes at any port. -/
def decode : Port → List Byte → Except DecodeError Instr
  | .hostOp, [v] => decodeOp v
  | .hostOp, _ => .error .illegalOp
  | .toDevice, bs => decodeCommand bs
  | .fromDevice, bs => decodeResponse bs

/-- How long the command at the head of a byte stream is (R89); `none` where the procedure does not
say. -/
def commandLength : List Byte → Option Nat
  | [] => none
  | b :: rest =>
    if b = 0x00 then some 1
    else if b = 0x53 then some 6
    else if b = 0x04 then some 2
    else if b = 0x01 then
      if rest.length < 7 then none
      else if rest[1]? = some Config.OPC_WRITE then
        (rest[6]?).map fun n => 8 + n.toNat + 3
      else some 9
    else none

/-- Takes one command off the head of a byte stream, with the rest of the stream. -/
def decodeCommandStream (bs : List Byte) : Except DecodeError (Instr × List Byte) :=
  match commandLength bs with
  | none => .error .notACommand
  | some n => (decodeFixedCommand (bs.take n)).map fun i => (i, bs.drop n)

/-! ### The encoder -/

/-- The port an instruction's bytes are on. -/
def Instr.port : Instr → Port
  | .start => .hostOp
  | .upgrade => .hostOp
  | .endFast => .hostOp
  | .close => .hostOp
  | .focus => .hostOp
  | .shoot => .hostOp
  | .readMem => .hostOp
  | .writeMem => .hostOp
  | .readMemoInfo => .hostOp
  | .getRingAddrs => .hostOp
  | .getMhAddrs => .hostOp
  | .getMhSetting => .hostOp
  | .wakeup => .toDevice
  | .unitInquiry => .toDevice
  | .cmdFocus => .toDevice
  | .cmdShoot => .toDevice
  | .readMemory _ _ _ => .toDevice
  | .writeToMemory _ _ => .toDevice
  | .eot => .toDevice
  | .baudUp => .toDevice
  | .readMemoHolderInfo => .toDevice
  | .okResponse => .fromDevice
  | .unitIdResponse => .fromDevice
  | .eotEcho => .fromDevice
  | .dataPacket _ => .fromDevice

/-- The nine bytes of format `CMD9` (R79). -/
def cmd9 (opc space : Byte) (address : Half) (length : Byte) : List Byte :=
  [Config.SOH, Config.CMD_CLASS, opc, space, highByte address, lowByte address, 0x00, length, Config.ETX]

/-- The eight bytes of the write header `WRH8` (R80). -/
def wrh8 (address : Half) (length : Byte) : List Byte :=
  [Config.SOH, Config.CMD_CLASS, Config.OPC_WRITE, 0x00, highByte address, lowByte address, 0x00, length]

/-- `encode`: total except an oversized `WriteToMemory` (R115 to R124); a host operation is the value
written to `OP` (R90), a response the bytes of its format (R81 to R84). -/
def encode : Instr → Except ErrKind (List Byte)
  | .start => .ok [0x01]
  | .upgrade => .ok [0x02]
  | .endFast => .ok [0x03]
  | .close => .ok [0x04]
  | .focus => .ok [0x10]
  | .shoot => .ok [0x11]
  | .readMem => .ok [0x12]
  | .writeMem => .ok [0x13]
  | .readMemoInfo => .ok [0x14]
  | .getRingAddrs => .ok [0x20]
  | .getMhAddrs => .ok [0x21]
  | .getMhSetting => .ok [0x22]
  | .wakeup => .ok Config.WAKEUP_CMD
  | .unitInquiry => .ok Config.INQUIRY_CMD
  | .cmdFocus => .ok (cmd9 Config.OPC_FOCUS 0x00 0x0000 0x00)
  | .cmdShoot => .ok (cmd9 Config.OPC_SHOOT 0x00 0x0000 0x00)
  | .readMemory s a n => .ok (cmd9 Config.OPC_READ s a n)
  | .writeToMemory a v =>
    if Config.WRITE_MAX < v.length then .error .encodingError
    else .ok (wrh8 a (BitVec.ofNat 8 v.length) ++ serialize v)
  | .eot => .ok Config.EOT_MARK
  | .baudUp => .ok Config.baudUpCmd.bytes
  | .readMemoHolderInfo => .ok Config.memoInfoCmd.bytes
  | .okResponse => .ok Config.OK_RESP
  | .unitIdResponse => .ok Config.UNIT_ID_RESP
  | .eotEcho => .ok Config.EOT_MARK
  | .dataPacket p => .ok (serialize p)

/-! ### The words of spec/opcode_table.json -/

/-- `n` bytes of a number, most significant first: the table reads "the bytes in transmission order as
one big-endian number" (R75). -/
def bigEndianBytes : Nat → Nat → List Byte
  | 0, _ => []
  | n + 1, w => BitVec.ofNat 8 (w / 256 ^ n % 256) :: bigEndianBytes n w

/-- The bytes a table word stands for. The row of `WriteToMemory` covers its 8-byte header only; the
packet that R80 puts after it is laid out with zero payload bytes (log 8). -/
def tableBytes (nbits w : Nat) : List Byte :=
  let bs := bigEndianBytes (nbits / 8) w
  if bs.length = 8 ∧ bs.take 4 = [Config.SOH, Config.CMD_CLASS, Config.OPC_WRITE, 0x00] then
    bs ++ serialize (List.replicate (w % 256) 0)
  else bs

/-- The first port at which the bytes are an instruction: an `OP` value, then a command, then a
response (log 8). -/
def decodeAnyPort (bs : List Byte) : Option Instr :=
  match decode .hostOp bs with
  | .ok i => some i
  | .error _ =>
    match decodeFixedCommand bs with
    | .ok i => some i
    | .error _ =>
      match decodeResponse bs with
      | .ok i => some i
      | .error _ => none

/-- The instruction of a table word. -/
def decodeTableWord (nbits w : Nat) : Option Instr := decodeAnyPort (tableBytes nbits w)

end Sys2Proof
end

