-- ==== Sys2Proof/Machine/State.lean ====
section
/-! DEFINITION. The state of the block (spec/10_state.md), the inputs and the observable record a step
function needs beside it (R21), and the machine right after reset (R37). -/

namespace Sys2Proof.Machine

/-- The operations the host can start (R90); what `SEQ.cur` names (R33). -/
inductive HostOp where
  | start
  | upgrade
  | endFast
  | close
  | focus
  | shoot
  | readMem
  | writeMem
  | readMemoInfo
  | getRingAddrs
  | getMhAddrs
  | getMhSetting
  deriving DecidableEq, Repr

/-- `SS`, the session state (R31). -/
inductive SessionState where
  | idle
  | awake
  | identified
  | fastMode
  | closed
  | desync
  deriving DecidableEq, Repr

/-- `STATUS`: its three used bits (R27). Bits 7 to 3 have no storage and read 0. -/
structure Status where
  busy : Bool
  done : Bool
  err : Bool
  deriving DecidableEq, Repr

/-- `SEQ` = (`cur`, `step`) (R33). -/
structure Seq where
  cur : Option HostOp
  step : Nat
  deriving DecidableEq, Repr

/-- A byte buffer of 255 entries (R24, R25). -/
abbrev Buf := Vector Byte 255

/-- A buffer whose entry `i` is `f i`. -/
def Buf.ofFn (f : Nat → Byte) : Buf := ⟨((List.range 255).map f).toArray, by simp⟩

/-- The registers of the host's port, by name (R22 to R34). -/
inductive HostReg where
  | op
  | status
  | errcode
  | errsub
  | errstep
  | ss
  | baud
  | aSpace
  | aLen
  | aAddr
  | vlen
  | rlen
  | ringStart
  | ringEnd
  | mhCurrent
  | mhStart
  | mhRollStart
  | mhSetting
  | mhBpf
  | rollId
  | bytesToRead
  | pbuf (i : Fin 255)
  | rbuf (i : Fin 255)
  deriving DecidableEq, Repr

/-- What the host can do to the block (R7, R22 to R34, R220). -/
inductive HostAction where
  /-- The host writes a value to a register; a write to `OP` starts an operation (R26). -/
  | write (r : HostReg) (v : Half)
  /-- The host reads a register (R68). -/
  | read (r : HostReg)
  /-- Reset is applied, at any time (R220, R221). -/
  | reset
  deriving DecidableEq, Repr

/-- Who moves next: the host with an action, or the block (log 3). -/
inductive Turn where
  | host (a : HostAction)
  | block
  deriving DecidableEq, Repr

/-- The events of R16. `ok = false`, and `none`, are the `Err` forms. -/
inductive Event where
  | write (s : List Byte) (ok : Bool)
  | read (n : Nat) (r : Option (List Byte))
  | clear (ok : Bool)
  | setBaud (rate : Nat) (ok : Bool)
  | delay (ms : Nat)
  deriving DecidableEq, Repr

/-- One host read and the value it returned (log 4). -/
structure HostRead where
  reg : HostReg
  value : Half
  deriving DecidableEq, Repr

/-- Why the machine stops. -/
inductive Fault where
  /-- Raised by the sequencer when `STATUS.BUSY` is 1 and `SEQ` names no step of a step list. No run
  from reset reaches such a state and the spec gives it no meaning. Safe: the machine stops (log 15). -/
  | noSuchStep
  deriving DecidableEq, Repr

/-- Why an instruction is refused by the model. -/
inductive Refusal where
  /-- Raised by an arm of `exec` that has no meaning yet; no arm raises it. Safe. -/
  | notModelled (mnemonic : String)
  deriving DecidableEq, Repr

end Sys2Proof.Machine

namespace Sys2Proof.Machine

/-- The block's registers (R20), then the model's own fields: the host's turns and the transport's
answers still to come, the event trace and the values read (newest last), and how many free values
have been drawn. -/
structure State where
  /-- `A_SPACE` (R22). -/
  aSpace : Byte
  /-- `A_LEN` (R22). -/
  aLen : Byte
  /-- `A_ADDR` (R22). -/
  aAddr : Half
  /-- `VLEN` (R22). -/
  vlen : Half
  /-- `PBUF` (R24). -/
  pbuf : Buf
  /-- `RBUF` (R25). -/
  rbuf : Buf
  /-- `RLEN` (R25). -/
  rlen : Byte
  /-- `STATUS` (R27). -/
  status : Status
  /-- `ERRCODE` (R28). -/
  errcode : Byte
  /-- `ERRSUB` (R29). -/
  errsub : Byte
  /-- `ERRSTEP` (R30). -/
  errstep : Byte
  /-- `SS` (R31). -/
  ss : SessionState
  /-- `BAUD` (R32). -/
  baud : LineSpeed
  /-- `SEQ` (R33). -/
  seq : Seq
  /-- `RING_START` (R34). -/
  ringStart : Half
  /-- `RING_END` (R34). -/
  ringEnd : Half
  /-- `MH_CURRENT` (R34). -/
  mhCurrent : Half
  /-- `MH_START` (R34). -/
  mhStart : Half
  /-- `MH_ROLL_START` (R34). -/
  mhRollStart : Half
  /-- `MH_SETTING` (R34). -/
  mhSetting : BitVec 2
  /-- `MH_BPF` (R34). -/
  mhBpf : BitVec 3
  /-- `ROLL_ID` (R34). -/
  rollId : Half
  /-- `BYTES_TO_READ` (R34). -/
  bytesToRead : Half
  /-- MODEL: the host's choices still to come (R21, log 3). -/
  turns : List Turn
  /-- MODEL: the oracle's answers still to come (R21, R61, log 2). -/
  answers : List Answer
  /-- MODEL: the event trace (R17, log 4). -/
  trace : List Event
  /-- MODEL: the values host reads returned (log 4). -/
  readLog : List HostRead
  /-- MODEL: how many free values have been drawn (R19, log 1). -/
  draws : Nat
  deriving DecidableEq, Repr

/-- A buffer of free bytes, draws `d` to `d + 254` (R24, R25). -/
def freeBuf (d : Nat) : Buf := Buf.ofFn fun i => Config.freeByte (d + i)

/-- The registers' values when reset is applied after `d` free values have been drawn (R37): what R37
calls "unspecified (draw)" is a free value, draws `d` to `d + 518` (log 1). The model's own fields are
empty. -/
def State.resetFrom (d : Nat) : State where
  aSpace := 0
  aLen := 0
  aAddr := 0
  vlen := 0
  pbuf := freeBuf d
  rbuf := freeBuf (d + 255)
  rlen := 0
  status := ⟨false, false, false⟩
  errcode := 0
  errsub := 0
  errstep := 0
  ss := .idle
  baud := .default
  seq := ⟨none, 0⟩
  ringStart := Config.freeHalf (d + 510)
  ringEnd := Config.freeHalf (d + 511)
  mhCurrent := Config.freeHalf (d + 512)
  mhStart := Config.freeHalf (d + 513)
  mhRollStart := Config.freeHalf (d + 514)
  mhSetting := Config.freeSetting (d + 515)
  mhBpf := Config.freeBpf (d + 516)
  rollId := Config.freeHalf (d + 517)
  bytesToRead := Config.freeHalf (d + 518)
  turns := []
  answers := []
  trace := []
  readLog := []
  draws := d + 519

/-- The machine right after reset (R37), nothing drawn before it. -/
def State.reset : State := State.resetFrom 0

end Sys2Proof.Machine
end

