-- ==== Sys2Proof/Machine/Flags.lean ====
section
/-! DEFINITION. The flag computations: the bits of `STATUS` (spec/10_state.md R27), the error registers
(R28 to R30) and the codes of the registers the host reads (R31, R32; spec/60_exceptions.md R190,
R191). -/

namespace Sys2Proof.Machine

/-- `code(K)`: the value of `ERRCODE` (R190). -/
def errorCode : ErrKind → Byte
  | .transportError => 1
  | .frameError _ => 2
  | .validationError _ => 3
  | .encodingError => 4
  | .rangeError => 5
  | .bcdError => 6
  | .settingError => 7
  | .stateError => 8
  | .illegalOp => 9

/-- The sub-kind of a `FrameError` (R191). -/
def frameSub : FrameErr → Byte
  | .tooShort => 1
  | .badStart => 2
  | .badEnd => 3
  | .badChecksum => 4

/-- The sub-kind of a `ValidationError` (R191). -/
def validationSub : FixedResponse → Byte
  | .ok => 1
  | .unitId => 2
  | .eotEcho => 3

/-- The value of `ERRSUB` (R191). -/
def errorSub : ErrKind → Byte
  | .frameError k => frameSub k
  | .validationError r => validationSub r
  | .transportError => 0
  | .encodingError => 0
  | .rangeError => 0
  | .bcdError => 0
  | .settingError => 0
  | .stateError => 0
  | .illegalOp => 0

/-- `STATUS` as the host reads it: `BUSY` bit 0, `DONE` bit 1, `ERR` bit 2, bits 7 to 3 zero (R27). -/
def statusByte (st : Status) : Byte := 0#5 ++ BitVec.ofBool st.err ++ BitVec.ofBool st.done ++ BitVec.ofBool st.busy

/-- `SS` as the host reads it (R31). -/
def sessionCode : SessionState → Byte
  | .idle => 0
  | .awake => 1
  | .identified => 2
  | .fastMode => 3
  | .closed => 4
  | .desync => 5

/-- `BAUD` as the host reads it (R32). -/
def baudCode : LineSpeed → Byte
  | .default => 0
  | .fast => 1

/-- The rate `T_set_baud` is called with (R64). -/
def baudRate : LineSpeed → Nat
  | .default => Config.BAUD_DEFAULT
  | .fast => Config.BAUD_FAST

/-- Acceptance step A2: `DONE`, `ERR` and the error registers are cleared (R141). -/
def clearErrors (s : State) : State :=
  { s with status := { s.status with done := false, err := false }, errcode := 0, errsub := 0, errstep := 0 }

/-- The error registers and flags of a refusal; `BUSY` is left alone (R196). -/
def setRefused (k : ErrKind) (s : State) : State :=
  { s with
    errcode := errorCode k
    errsub := 0
    errstep := 0
    status := { s.status with done := true, err := true } }

/-- The error registers and flags of an abort at the step `SEQ` is at (R197). -/
def setAborted (k : ErrKind) (s : State) : State :=
  { s with
    errcode := errorCode k
    errsub := errorSub k
    errstep := BitVec.ofNat 8 s.seq.step
    status := { busy := false, done := true, err := true } }

/-- The flags of a completion: `BUSY` falls and `DONE` rises in the same step, `ERR` stays (R27, R142). -/
def setCompleted (s : State) : State :=
  { s with status := { s.status with busy := false, done := true } }

end Sys2Proof.Machine
end

