-- ==== Sys2Proof/Machine/Operands.lean ====
section
/-! DEFINITION. The operand forms. The wire command a step sends is assembled from the registers, or
from constants, in the ways of spec/30_encoding.md R86 and in no other way. -/

namespace Sys2Proof.Machine

/-- `PBUF[0..n)` (R24); for `n` above 255, all of the buffer. -/
def pbufPrefix (s : State) (n : Nat) : List Byte := s.pbuf.toList.take n

/-- `RBUF[0..RLEN)`: the last accepted payload (R25). -/
def receivedPayload (s : State) : List Byte := s.rbuf.toList.take s.rlen.toNat

/-- `ReadMemory{A_SPACE, A_ADDR, A_LEN}` (R86, R158). -/
def readMemoryOperands (s : State) : Instr := .readMemory s.aSpace s.aAddr s.aLen

/-- `WriteToMemory{A_ADDR, PBUF[0..VLEN)}` (R86, R160). -/
def writeToMemoryOperands (s : State) : Instr := .writeToMemory s.aAddr (pbufPrefix s s.vlen.toNat)

/-- `ReadMemory{TELEM_SPACE, 0xFD00, 4}` (R177). -/
def ringQuery : Instr := .readMemory Config.telemSpace Config.ADDR_RING 4

/-- `ReadMemory{TELEM_SPACE, 0xFD42, 6}` (R178). -/
def mhAddrsQuery : Instr := .readMemory Config.telemSpace Config.ADDR_MH_ADDRS 6

/-- `ReadMemory{TELEM_SPACE, 0xFD40, 1}` (R179). -/
def mhSettingQuery : Instr := .readMemory Config.telemSpace Config.ADDR_MH_SETTING 1

/-- The register's number on the host's port (R22 to R34). -/
def hostRegNumber : HostReg → Nat
  | .op => 0x00
  | .status => 0x01
  | .errcode => 0x02
  | .errsub => 0x03
  | .errstep => 0x04
  | .ss => 0x05
  | .baud => 0x06
  | .aSpace => 0x08
  | .aLen => 0x09
  | .aAddr => 0x0A
  | .vlen => 0x0C
  | .rlen => 0x0E
  | .ringStart => 0x10
  | .ringEnd => 0x12
  | .mhCurrent => 0x14
  | .mhStart => 0x16
  | .mhRollStart => 0x18
  | .mhSetting => 0x1A
  | .mhBpf => 0x1B
  | .rollId => 0x1C
  | .bytesToRead => 0x1E
  | .pbuf i => 0x100 + i.val
  | .rbuf i => 0x200 + i.val

/-- The levels the host's wires take for one action: `HOST_BUS` at the register's number (R9, R220, log 10). -/
def hostSignals : HostAction → List (List Bool)
  | .write r v => Config.hostBusWrite (hostRegNumber r) v
  | .read r => Config.hostBusRead (hostRegNumber r)
  | .reset => Config.hostBusReset

/-- The register's width in bits (R22 to R34). -/
def hostRegWidth : HostReg → Nat
  | .op => 8
  | .status => 8
  | .errcode => 8
  | .errsub => 8
  | .errstep => 8
  | .ss => 3
  | .baud => 1
  | .aSpace => 8
  | .aLen => 8
  | .aAddr => 16
  | .vlen => 16
  | .rlen => 8
  | .ringStart => 16
  | .ringEnd => 16
  | .mhCurrent => 16
  | .mhStart => 16
  | .mhRollStart => 16
  | .mhSetting => 2
  | .mhBpf => 3
  | .rollId => 16
  | .bytesToRead => 16
  | .pbuf _ => 8
  | .rbuf _ => 8

/-- The registers whose host read is unspecified while `STATUS.BUSY` = 1: `RBUF`, `RLEN` and the nine
result registers (R68). -/
def unspecifiedWhileBusy : HostReg → Bool
  | .rlen => true
  | .ringStart => true
  | .ringEnd => true
  | .mhCurrent => true
  | .mhStart => true
  | .mhRollStart => true
  | .mhSetting => true
  | .mhBpf => true
  | .rollId => true
  | .bytesToRead => true
  | .rbuf _ => true
  | .op => false
  | .status => false
  | .errcode => false
  | .errsub => false
  | .errstep => false
  | .ss => false
  | .baud => false
  | .aSpace => false
  | .aLen => false
  | .aAddr => false
  | .vlen => false
  | .pbuf _ => false

end Sys2Proof.Machine
end

