-- ==== Sys2Proof/Machine/Telemetry.lean ====
section
/-! DEFINITION. The Telemetry Decoders (spec/45_telemetry.md R170 to R176): pure functions of a
payload. -/

namespace Sys2Proof.Machine

/-- `MemoHolderSetting` (R172). -/
inductive MemoHolderSetting where
  | doNotStore
  | minimum
  | intermediate
  | full
  deriving DecidableEq, Repr

/-- `read_u16_le(b, o)`: low byte at `o`, high byte at `o + 1` (R53, R170). -/
def readU16le (b : List Byte) (o : Nat) : Except ErrKind Half :=
  match b[o]?, b[o + 1]? with
  | some lo, some hi => .ok (hi ++ lo)
  | _, _ => .error .rangeError

/-- The four nibbles of a word, least significant first (R171). -/
def nibbles (v : Half) : List Nat :=
  [ (v.extractLsb' 0 4).toNat, (v.extractLsb' 4 4).toNat,
    (v.extractLsb' 8 4).toNat, (v.extractLsb' 12 4).toNat ]

/-- Decimal digits, least significant first, recombined: `d0 + d1*10 + d2*100 + d3*1000` (R171). -/
def ofDigits : List Nat → Nat
  | [] => 0
  | d :: ds => d + 10 * ofDigits ds

/-- `read_4_digit_bcd(v)` (R171). -/
def readBcd4 (v : Half) : Except ErrKind Nat :=
  if (nibbles v).all (· ≤ 9) then .ok (ofDigits (nibbles v)) else .error .bcdError

/-- `decode_setting(x)`: the flag test first, then an exact match (R172). -/
def decodeSetting (x : Byte) : Except ErrKind MemoHolderSetting :=
  if x &&& 0x40 = 0 then .ok .doNotStore
  else if x = 0x45 then .ok .minimum
  else if x = 0x4E then .ok .intermediate
  else if x = 0x5F then .ok .full
  else .error .settingError

/-- `bytes_per_frame(s)` (R173). -/
def bytesPerFrame : MemoHolderSetting → BitVec 3
  | .doNotStore => 0
  | .minimum => 2
  | .intermediate => 4
  | .full => 6

/-- The value `MH_SETTING` holds for a setting (R34). -/
def settingCode : MemoHolderSetting → BitVec 2
  | .doNotStore => 0
  | .minimum => 1
  | .intermediate => 2
  | .full => 3

/-- `decode_ring(p)`: `start` then `end` (R174). -/
def decodeRing (p : List Byte) : Except ErrKind (Half × Half) := do
  let start ← readU16le p 0
  let stop ← readU16le p 2
  pure (start, stop)

/-- `decode_mh_addrs(p)`: `current`, `start`, `current_roll_start` in that order (R175). -/
def decodeMhAddrs (p : List Byte) : Except ErrKind (Half × Half × Half) := do
  let current ← readU16le p 0
  let start ← readU16le p 2
  let rollStart ← readU16le p 4
  pure (current, start, rollStart)

/-- `decode_memo_info(p)`: the roll number is BCD, `bytes_to_read` a plain u16; the order of the lines
decides which error comes first (R176). -/
def decodeMemoInfo (p : List Byte) : Except ErrKind (Nat × Half) := do
  let w ← readU16le p 0
  let rollId ← readBcd4 w
  let bytesToRead ← readU16le p 2
  pure (rollId, bytesToRead)

end Sys2Proof.Machine
end

