-- ==== Sys2Proof/Machine/Ops.lean ====
section
/-! DEFINITION. The shared operations: the transport primitives (spec/20_memory.md R60 to R65), the
step lists, acceptance and completion (spec/43_session.md R141, R142), refusal and abort, which are
this block's way of taking an exception (spec/60_exceptions.md R196, R197), and reset, which is the
only way back from an abort (R199, spec/70_reset_and_hazards.md R220). -/

namespace Sys2Proof.Machine

/-- What one step of the machine answers. -/
abbrev StepResult := Host.Outcome State Fault Refusal

/-! ### The transport primitives -/

/-- One event at the end of the trace (R16, R17). -/
def recordEvent (e : Event) (s : State) : State := { s with trace := s.trace ++ [e] }

/-- The transport's answer to the next primitive: the next listed one, or past the list a free one
(R61, log 2). -/
def nextAnswer (s : State) : Answer × State :=
  match s.answers with
  | a :: rest => (a, { s with answers := rest })
  | [] => (Config.freeAnswer s.draws, { s with draws := s.draws + 1 })

/-- Whether a primitive that returns no bytes succeeded; bytes that come with the answer are dropped
(R62 to R64). -/
def answerOk : Answer → Bool
  | .ok _ => true
  | .err => false

/-- What `T_read(n)` returns for an answer: exactly `n` bytes, or an error; when fewer than `n` bytes
arrive the read has timed out (R61, log 2). -/
def readResult (n : Nat) : Answer → Option (List Byte)
  | .ok r => if n ≤ r.length then some (r.take n) else none
  | .err => none

/-- `T_write(s)` (R62). -/
def tWrite (bs : List Byte) (s : State) : Bool × State :=
  let (a, s1) := nextAnswer s
  (answerOk a, recordEvent (.write bs (answerOk a)) s1)

/-- `T_clear()`; the discarded bytes are dropped (R63). -/
def tClear (s : State) : Bool × State :=
  let (a, s1) := nextAnswer s
  (answerOk a, recordEvent (.clear (answerOk a)) s1)

/-- `T_set_baud(rate)` (R64): on success `BAUD` holds the new speed, on failure a free one (R32). -/
def tSetBaud (b : LineSpeed) (s : State) : Bool × State :=
  let (a, s1) := nextAnswer s
  let s2 := recordEvent (.setBaud (baudRate b) (answerOk a)) s1
  if answerOk a then (true, { s2 with baud := b })
  else (false, { s2 with baud := Config.freeSpeed s2.draws, draws := s2.draws + 1 })

/-- `T_read(n)` once its answer is known (R61). -/
def tReadWith (n : Nat) (a : Answer) (s : State) : Option (List Byte) × State :=
  (readResult n a, recordEvent (.read n (readResult n a)) s)

/-- `Delay(SETTLE_MS)`: an event, no time, no failure (R65). -/
def delay (s : State) : State := recordEvent (.delay Config.SETTLE_MS) s

/-! ### The step lists -/

/-- The decode step of an operation (R163, R177 to R179). -/
inductive Decoder where
  | ring
  | mhAddrs
  | mhSetting
  | memoInfo
  deriving DecidableEq, Repr

/-- One line of an operation's step list. -/
inductive Action where
  /-- `T_write(encode(c))`. -/
  | send (c : Instr)
  /-- `Delay(SETTLE_MS)`. -/
  | delay
  /-- `T_clear()`. -/
  | clear
  /-- `T_set_baud(rate)`, on Ok `BAUD <- ...`. -/
  | setBaud (b : LineSpeed)
  /-- `expect_ok()`, `expect_unit_id()` or `expect_eot_echo()`. -/
  | expect (r : FixedResponse)
  /-- `read_packet(n)`. -/
  | packet (n : Nat)
  /-- `SS <- x`. -/
  | enter (x : SessionState)
  /-- A decoder applied to the packet read before, and its result registers written. -/
  | decode (d : Decoder)
  deriving DecidableEq, Repr

/-- The step list of every operation, its operands taken from the registers (R143, R145, R147, R148,
R156 to R158, R160, R163, R177 to R179). -/
def stepList (s : State) : HostOp → List Action
  | .start => [.send .wakeup, .delay, .clear, .send .unitInquiry, .expect .unitId, .enter .identified]
  | .upgrade => [.send .baudUp, .expect .ok, .delay, .setBaud .fast, .enter .fastMode]
  | .endFast => [.send .eot, .expect .eotEcho, .delay, .setBaud .default, .enter .identified]
  | .close => [.enter .closed]
  | .focus => [.send .cmdFocus, .expect .ok]
  | .shoot => [.send .cmdShoot, .expect .ok]
  | .readMem => [.send (readMemoryOperands s), .packet s.aLen.toNat]
  | .writeMem => [.send (writeToMemoryOperands s), .expect .ok]
  | .readMemoInfo => [.send .readMemoHolderInfo, .packet 4, .decode .memoInfo]
  | .getRingAddrs => [.send ringQuery, .packet 4, .decode .ring]
  | .getMhAddrs => [.send mhAddrsQuery, .packet 6, .decode .mhAddrs]
  | .getMhSetting => [.send mhSettingQuery, .packet 1, .decode .mhSetting]

/-- The step `SEQ` is at (R33); steps are numbered from 1. -/
def currentAction (s : State) : Option Action :=
  match s.seq.cur, s.seq.step with
  | some op, k + 1 => (stepList s op)[k]?
  | _, _ => none

/-- The step that is about to run, if an operation is running. -/
def running (s : State) : Option Action :=
  if s.status.busy then currentAction s else none

/-! ### Completion, refusal, abort -/

/-- Completion of the operation (R142). -/
def complete (s : State) : State := { setCompleted s with seq := ⟨none, 0⟩ }

/-- The running step is done: the next one, or the operation's completion after the last (R33, R142). -/
def finishStep (s : State) : State :=
  match s.seq.cur with
  | none => s
  | some op =>
    if s.seq.step < (stepList s op).length then { s with seq := ⟨some op, s.seq.step + 1⟩ }
    else complete s

/-- `refuse K` (R196). -/
def refuse (k : ErrKind) (s : State) : State := setRefused k s

/-- `abort (K, u) at step k` (R197): the error registers and flags, `SS <- Desync`, `SEQ <- (none, 0)`,
and `RBUF`, `RLEN` unspecified, which is 256 free bytes (log 1). -/
def abort (k : ErrKind) (s : State) : State :=
  { setAborted k s with
    ss := .desync
    seq := ⟨none, 0⟩
    rbuf := freeBuf s.draws
    rlen := Config.freeByte (s.draws + 255)
    draws := s.draws + 256 }

/-! ### Acceptance -/

/-- The code of an operation (R90). -/
def opCode : HostOp → Byte
  | .start => 0x01
  | .upgrade => 0x02
  | .endFast => 0x03
  | .close => 0x04
  | .focus => 0x10
  | .shoot => 0x11
  | .readMem => 0x12
  | .writeMem => 0x13
  | .readMemoInfo => 0x14
  | .getRingAddrs => 0x20
  | .getMhAddrs => 0x21
  | .getMhSetting => 0x22

/-- The row of the opcode table that starts an operation. -/
def opInstr : HostOp → Instr
  | .start => .start
  | .upgrade => .upgrade
  | .endFast => .endFast
  | .close => .close
  | .focus => .focus
  | .shoot => .shoot
  | .readMem => .readMem
  | .writeMem => .writeMem
  | .readMemoInfo => .readMemoInfo
  | .getRingAddrs => .getRingAddrs
  | .getMhAddrs => .getMhAddrs
  | .getMhSetting => .getMhSetting

/-- Which operation is accepted in which session state: the table of R140. -/
def acceptedIn (op : HostOp) (x : SessionState) : Bool :=
  match op with
  | .start => decide (x = .idle)
  | .upgrade => decide (x = .identified)
  | .endFast => decide (x = .fastMode)
  | .close => decide (x = .identified)
  | .focus => decide (x = .identified ∨ x = .fastMode)
  | .shoot => decide (x = .identified ∨ x = .fastMode)
  | .readMem => decide (x = .identified ∨ x = .fastMode)
  | .writeMem => decide (x = .identified ∨ x = .fastMode)
  | .readMemoInfo => decide (x = .identified ∨ x = .fastMode)
  | .getRingAddrs => decide (x = .identified ∨ x = .fastMode)
  | .getMhAddrs => decide (x = .identified ∨ x = .fastMode)
  | .getMhSetting => decide (x = .identified ∨ x = .fastMode)

/-- A4: the operation starts (R141). -/
def begin (op : HostOp) (s : State) : State :=
  { s with status := { s.status with busy := true }, seq := ⟨some op, 1⟩ }

/-- The host writes the code of an operation to `OP`: steps A1 to A4 of R141. -/
def writeOp (op : HostOp) (s : State) : State :=
  if s.status.busy then s
  else if ¬ acceptedIn op s.ss then refuse .stateError (clearErrors s)
  else if op = .writeMem ∧ Config.WRITE_MAX < s.vlen.toNat then refuse .encodingError (clearErrors s)
  else begin op (clearErrors s)

/-- The host writes any other value to `OP` (R91, R141 A3a). -/
def writeIllegalOp (s : State) : State :=
  if s.status.busy then s else refuse .illegalOp (clearErrors s)

/-! ### The steps that are rows of the opcode table -/

/-- The row of the opcode table an instruction belongs to, counted from 0. -/
def tableRow : Instr → Nat
  | .start => 0
  | .upgrade => 1
  | .endFast => 2
  | .close => 3
  | .focus => 4
  | .shoot => 5
  | .readMem => 6
  | .writeMem => 7
  | .readMemoInfo => 8
  | .getRingAddrs => 9
  | .getMhAddrs => 10
  | .getMhSetting => 11
  | .wakeup => 12
  | .unitInquiry => 13
  | .cmdFocus => 14
  | .cmdShoot => 15
  | .readMemory _ _ _ => 16
  | .writeToMemory _ _ => 17
  | .eot => 18
  | .baudUp => 19
  | .readMemoHolderInfo => 20
  | .okResponse => 21
  | .unitIdResponse => 22
  | .eotEcho => 23
  | .dataPacket _ => 24

/-- The running step sends the command of this row (log 6). -/
def sendsRow (s : State) (i : Instr) : Bool :=
  match running s with
  | some (.send c) => tableRow c == tableRow i
  | _ => false

/-- The step `T_write(encode(i))` of the running operation: one write, then the next step, or an abort
with `TransportError`. `onOk` is what the step does besides when the write succeeds. The block sends a
command only as a step of an operation (R33, R66, R88): at any other time nothing is sent. A
`WriteToMemory` too long to encode ends the operation before any I/O, as a refusal does (R121, R190);
the step lists never present one (log 6). -/
def sendCommand (i : Instr) (onOk : State → State) (s : State) : State :=
  if sendsRow s i then
    match encode i with
    | .error k => complete (refuse k s)
    | .ok bs =>
      let (ok, s1) := tWrite bs s
      if ok then finishStep (onOk s1) else abort .transportError s1
  else s

/-- The bytes of a fixed response (R82 to R84). -/
def expectedBytes : FixedResponse → List Byte
  | .ok => Config.OK_RESP
  | .unitId => Config.UNIT_ID_RESP
  | .eotEcho => Config.EOT_MARK

/-- `expect_ok()`, `expect_unit_id()`, `expect_eot_echo()` with the answer its one read got: the
transport error first, then all bytes compared (R130 to R133). -/
def receiveFixed (r : FixedResponse) (a : Answer) (s : State) : State :=
  let (res, s1) := tReadWith (expectedBytes r).length a s
  match res with
  | none => abort .transportError s1
  | some b => if b = expectedBytes r then finishStep s1 else abort (.validationError r) s1

/-- `RBUF[0..n) <- p ; RLEN <- n` with `n = len(p)`; the entries from `RLEN` on are unspecified, so they
are free values (R25, log 1). -/
def storePayload (p : List Byte) (s : State) : State :=
  { s with
    rbuf := Buf.ofFn fun i => p.getD i (Config.freeByte (s.draws + i))
    rlen := BitVec.ofNat 8 p.length
    draws := s.draws + 255 }

/-- `read_packet(n)` with the answer its one read got (R134). -/
def receivePacket (n : Nat) (a : Answer) (s : State) : State :=
  let (res, s1) := tReadWith (n + 3) a s
  match res with
  | none => abort .transportError s1
  | some f =>
    match deserialize f with
    | .error k => abort (.frameError k) s1
    | .ok p => finishStep (storePayload p s1)

/-- The transport answers the running step's read. When no step is reading, what the device sends
waits outside the block and changes nothing in it (R194, log 7). -/
def receive (a : Answer) (s : State) : State :=
  match running s with
  | some (.expect r) => receiveFixed r a s
  | some (.packet n) => receivePacket n a s
  | _ => s

/-! ### The other steps -/

/-- The step `T_clear()` (R143 step 3). -/
def clearStep (s : State) : State :=
  let (ok, s1) := tClear s
  if ok then finishStep s1 else abort .transportError s1

/-- The step `T_set_baud(rate)` (R145 step 4, R147 step 4). -/
def setBaudStep (b : LineSpeed) (s : State) : State :=
  let (ok, s1) := tSetBaud b s
  if ok then finishStep s1 else abort .transportError s1

/-- The step `SS <- x`. -/
def enterStep (x : SessionState) (s : State) : State := finishStep { s with ss := x }

/-- `(s, e) <- decode_ring(p) ; RING_START <- s ; RING_END <- e` (R177 step 3). -/
def decodeRingStep (s : State) : State :=
  match decodeRing (receivedPayload s) with
  | .ok (a, b) => finishStep { s with ringStart := a, ringEnd := b }
  | .error k => abort k s

/-- `(c, s, r) <- decode_mh_addrs(p)` and its three registers (R178 step 3). -/
def decodeMhAddrsStep (s : State) : State :=
  match decodeMhAddrs (receivedPayload s) with
  | .ok (c, b, r) => finishStep { s with mhCurrent := c, mhStart := b, mhRollStart := r }
  | .error k => abort k s

/-- `s <- decode_setting(p[0]) ; MH_SETTING <- s ; MH_BPF <- bytes_per_frame(s)` (R179 step 3). -/
def decodeMhSettingStep (s : State) : State :=
  match (receivedPayload s).head? with
  | none => abort .rangeError s
  | some x =>
    match decodeSetting x with
    | .ok m => finishStep { s with mhSetting := settingCode m, mhBpf := bytesPerFrame m }
    | .error k => abort k s

/-- `(id, n) <- decode_memo_info(p) ; ROLL_ID <- id ; BYTES_TO_READ <- n` (R163 step 3). -/
def decodeMemoInfoStep (s : State) : State :=
  match decodeMemoInfo (receivedPayload s) with
  | .ok (id, n) => finishStep { s with rollId := BitVec.ofNat 16 id, bytesToRead := n }
  | .error k => abort k s

/-- The decode step of an operation. -/
def decodeStep : Decoder → State → State
  | .ring, s => decodeRingStep s
  | .mhAddrs, s => decodeMhAddrsStep s
  | .mhSetting, s => decodeMhSettingStep s
  | .memoInfo, s => decodeMemoInfoStep s

/-! ### Reset and the host's port -/

/-- Reset is applied (R220, R221): every register takes its reset value; no event is recorded, and what
is outside the block (R222) is left alone. -/
def applyReset (s : State) : State :=
  { State.resetFrom s.draws with
    turns := s.turns
    answers := s.answers
    trace := s.trace
    readLog := s.readLog }

/-- A host write to a register other than `OP`: operand registers and `PBUF` take it when the block is
not busy (R22, R24, R68); every other register is read-only (log 11). -/
def writeRegister (r : HostReg) (v : Half) (s : State) : State :=
  if s.status.busy then s
  else
    match r with
    | .aSpace => { s with aSpace := lowByte v }
    | .aLen => { s with aLen := lowByte v }
    | .aAddr => { s with aAddr := v }
    | .vlen => { s with vlen := v }
    | .pbuf i => { s with pbuf := s.pbuf.set i.val (lowByte v) }
    | .op => s
    | .status => s
    | .errcode => s
    | .errsub => s
    | .errstep => s
    | .ss => s
    | .baud => s
    | .rlen => s
    | .ringStart => s
    | .ringEnd => s
    | .mhCurrent => s
    | .mhStart => s
    | .mhRollStart => s
    | .mhSetting => s
    | .mhBpf => s
    | .rollId => s
    | .bytesToRead => s
    | .rbuf _ => s

/-- What a register holds, seen as a 16-bit number (R26 to R34). -/
def registerValue (r : HostReg) (s : State) : Half :=
  match r with
  | .op => 0
  | .status => (statusByte s.status).setWidth 16
  | .errcode => s.errcode.setWidth 16
  | .errsub => s.errsub.setWidth 16
  | .errstep => s.errstep.setWidth 16
  | .ss => (sessionCode s.ss).setWidth 16
  | .baud => (baudCode s.baud).setWidth 16
  | .aSpace => s.aSpace.setWidth 16
  | .aLen => s.aLen.setWidth 16
  | .aAddr => s.aAddr
  | .vlen => s.vlen
  | .rlen => s.rlen.setWidth 16
  | .ringStart => s.ringStart
  | .ringEnd => s.ringEnd
  | .mhCurrent => s.mhCurrent
  | .mhStart => s.mhStart
  | .mhRollStart => s.mhRollStart
  | .mhSetting => s.mhSetting.setWidth 16
  | .mhBpf => s.mhBpf.setWidth 16
  | .rollId => s.rollId
  | .bytesToRead => s.bytesToRead
  | .pbuf i => (s.pbuf[i.val]).setWidth 16
  | .rbuf i => (s.rbuf[i.val]).setWidth 16

/-- A host read: always allowed; while the block is busy, a read of `RBUF`, `RLEN` or a result register
returns a free value of the register's width (R68, log 12). -/
def readRegister (r : HostReg) (s : State) : State :=
  if s.status.busy ∧ unspecifiedWhileBusy r then
    { s with
      readLog := s.readLog ++ [⟨r, ((Config.freeHalf s.draws).setWidth (hostRegWidth r)).setWidth 16⟩]
      draws := s.draws + 1 }
  else { s with readLog := s.readLog ++ [⟨r, registerValue r s⟩] }

end Sys2Proof.Machine
end

