-- ==== Sys2Proof/Machine/Commands.lean ====
section
/-! DEFINITION. The ordinary command operations (spec/44_commands.md R155 to R163) and the three
telemetry queries (spec/45_telemetry.md R177 to R179), started by a write to `OP` (R141). -/

namespace Sys2Proof.Machine

/-- FOCUS (R156). -/
def execFocus (s : State) : StepResult := .next (writeOp .focus s)

/-- SHOOT (R157). -/
def execShoot (s : State) : StepResult := .next (writeOp .shoot s)

/-- READ_MEM (R158, R159). -/
def execReadMem (s : State) : StepResult := .next (writeOp .readMem s)

/-- WRITE_MEM (R160, R161). -/
def execWriteMem (s : State) : StepResult := .next (writeOp .writeMem s)

/-- READ_MEMO_INFO (R163). -/
def execReadMemoInfo (s : State) : StepResult := .next (writeOp .readMemoInfo s)

/-- GET_RING_ADDRS (R177). -/
def execGetRingAddrs (s : State) : StepResult := .next (writeOp .getRingAddrs s)

/-- GET_MH_ADDRS (R178). -/
def execGetMhAddrs (s : State) : StepResult := .next (writeOp .getMhAddrs s)

/-- GET_MH_SETTING (R179). -/
def execGetMhSetting (s : State) : StepResult := .next (writeOp .getMhSetting s)

end Sys2Proof.Machine
end

