-- ==== Sys2Proof/Machine/Responses.lean ====
section
/-! DEFINITION. The device-to-block rows (spec/42_response_validators.md R130 to R134): the bytes of a
response arrive as the answer to the read of the running step (log 7). -/

namespace Sys2Proof.Machine

/-- OkResponse arrives (R83, R131). -/
def execOkResponse (s : State) : StepResult := .next (receive (.ok Config.OK_RESP) s)

/-- UnitIdResponse arrives (R84, R132). -/
def execUnitIdResponse (s : State) : StepResult := .next (receive (.ok Config.UNIT_ID_RESP) s)

/-- EotEcho arrives (R82, R133). -/
def execEotEcho (s : State) : StepResult := .next (receive (.ok Config.EOT_MARK) s)

/-- DataPacket arrives: the frame of `payload` (R81, R104, R134). -/
def execDataPacket (payload : List Byte) (s : State) : StepResult :=
  .next (receive (.ok (serialize payload)) s)

end Sys2Proof.Machine
end

