-- ==== Sys2Proof/Machine/Session.lean ====
section
/-! DEFINITION. The four session operations (spec/43_session.md R143 to R148). The host writes the
operation's code to `OP`: the acceptance procedure of R141 refuses it or starts its step list, which
the sequencer then runs one step at a time (R33). -/

namespace Sys2Proof.Machine

/-- START (R143): wake-up, settle, clear, inquiry, identification. -/
def execStart (s : State) : StepResult := .next (writeOp .start s)

/-- UPGRADE (R145, R146): change to 9600 baud. -/
def execUpgrade (s : State) : StepResult := .next (writeOp .upgrade s)

/-- END_FAST (R147): back to 1200 baud. -/
def execEndFast (s : State) : StepResult := .next (writeOp .endFast s)

/-- CLOSE (R148): end the session; nothing is sent. -/
def execClose (s : State) : StepResult := .next (writeOp .close s)

end Sys2Proof.Machine
end

