-- ==== Sys2Proof/Machine/Wire.lean ====
section
/-! DEFINITION. The nine wire commands (spec/41_command_encoder.md R116 to R124), each run as the
`T_write` step of the operation that sends it. -/

namespace Sys2Proof.Machine

/-- Wakeup: START step 1, which enters `Awake` when the write has succeeded (R116, R143, R144). -/
def execWakeup (s : State) : StepResult := .next (sendCommand .wakeup (fun t => { t with ss := .awake }) s)

/-- UnitInquiry: START step 4 (R117). -/
def execUnitInquiry (s : State) : StepResult := .next (sendCommand .unitInquiry id s)

/-- Focus: FOCUS step 1 (R118). -/
def execCmdFocus (s : State) : StepResult := .next (sendCommand .cmdFocus id s)

/-- Shoot: SHOOT step 1 (R119). -/
def execCmdShoot (s : State) : StepResult := .next (sendCommand .cmdShoot id s)

/-- ReadMemory: step 1 of READ_MEM and of the three queries (R120). -/
def execReadMemory (space : Byte) (address : Half) (length : Byte) (s : State) : StepResult :=
  .next (sendCommand (.readMemory space address length) id s)

/-- WriteToMemory: WRITE_MEM step 1, header and packet in one write (R62, R121). -/
def execWriteToMemory (address : Half) (values : List Byte) (s : State) : StepResult :=
  .next (sendCommand (.writeToMemory address values) id s)

/-- Eot: END_FAST step 1 (R124). -/
def execEot (s : State) : StepResult := .next (sendCommand .eot id s)

/-- BaudUp: UPGRADE step 1 (R123). -/
def execBaudUp (s : State) : StepResult := .next (sendCommand .baudUp id s)

/-- ReadMemoHolderInfo: READ_MEMO_INFO step 1 (R122). -/
def execReadMemoHolderInfo (s : State) : StepResult := .next (sendCommand .readMemoHolderInfo id s)

end Sys2Proof.Machine
end

