-- ==== Sys2Proof/Machine/Dispatch.lean ====
section
/-! DEFINITION. One arm for each constructor of `Instr`. -/

namespace Sys2Proof.Machine

def exec (i : Instr) (s : State) : Host.Outcome State Fault Refusal :=
  match i with
  | .start => Sys2Proof.Machine.execStart s
  | .upgrade => Sys2Proof.Machine.execUpgrade s
  | .endFast => Sys2Proof.Machine.execEndFast s
  | .close => Sys2Proof.Machine.execClose s
  | .focus => Sys2Proof.Machine.execFocus s
  | .shoot => Sys2Proof.Machine.execShoot s
  | .readMem => Sys2Proof.Machine.execReadMem s
  | .writeMem => Sys2Proof.Machine.execWriteMem s
  | .readMemoInfo => Sys2Proof.Machine.execReadMemoInfo s
  | .getRingAddrs => Sys2Proof.Machine.execGetRingAddrs s
  | .getMhAddrs => Sys2Proof.Machine.execGetMhAddrs s
  | .getMhSetting => Sys2Proof.Machine.execGetMhSetting s
  | .wakeup => Sys2Proof.Machine.execWakeup s
  | .unitInquiry => Sys2Proof.Machine.execUnitInquiry s
  | .cmdFocus => Sys2Proof.Machine.execCmdFocus s
  | .cmdShoot => Sys2Proof.Machine.execCmdShoot s
  | .readMemory space address length => Sys2Proof.Machine.execReadMemory space address length s
  | .writeToMemory address values => Sys2Proof.Machine.execWriteToMemory address values s
  | .eot => Sys2Proof.Machine.execEot s
  | .baudUp => Sys2Proof.Machine.execBaudUp s
  | .readMemoHolderInfo => Sys2Proof.Machine.execReadMemoHolderInfo s
  | .okResponse => Sys2Proof.Machine.execOkResponse s
  | .unitIdResponse => Sys2Proof.Machine.execUnitIdResponse s
  | .eotEcho => Sys2Proof.Machine.execEotEcho s
  | .dataPacket payload => Sys2Proof.Machine.execDataPacket payload s

end Sys2Proof.Machine
end

