-- ==== Sys2Proof/Machine/Sequencer.lean ====
section
/-! DEFINITION. The two agents' turns: the sequencer runs the step `SEQ` is at (spec/10_state.md R33),
the host acts on the registers (R26, R68, R220); and what it takes to place one table word so that the
next step runs it. -/

namespace Sys2Proof.Machine

/-- The block's turn. Idle, it waits for an `OP` write (R220). Busy, it runs one step: a command step
runs the wire command's instruction, a reading step takes the transport's answer. -/
def sequencerTurn (s : State) : StepResult :=
  if s.status.busy then
    match currentAction s with
    | none => .fault .noSuchStep
    | some (.send i) => exec i s
    | some (.expect _) => .next (receive (nextAnswer s).1 (nextAnswer s).2)
    | some (.packet _) => .next (receive (nextAnswer s).1 (nextAnswer s).2)
    | some .delay => .next (finishStep (delay s))
    | some .clear => .next (clearStep s)
    | some (.setBaud b) => .next (setBaudStep b s)
    | some (.enter x) => .next (enterStep x s)
    | some (.decode d) => .next (decodeStep d s)
  else .next s

/-- The host's turn. A write to `OP` is decoded (R90) and its instruction run, or refused as illegal
(R91, R141). -/
def hostTurn (a : HostAction) (s : State) : StepResult :=
  match a with
  | .write .op v =>
    match decode .hostOp [lowByte v] with
    | .ok i => exec i s
    | .error _ => .next (writeIllegalOp s)
  | .write r v => .next (writeRegister r v s)
  | .read r => .next (readRegister r s)
  | .reset => .next (applyReset s)

/-- Whoever moves next moves; when the host has nothing left to do, the block moves (log 3). -/
def takeTurn (s : State) : StepResult :=
  match s.turns with
  | [] => sequencerTurn s
  | .block :: rest => sequencerTurn { s with turns := rest }
  | .host a :: rest => hostTurn a { s with turns := rest }

/-! ### Placing one instruction -/

/-- The sequencer is about to run step `k` of `op`, and the block moves next. -/
def atStep (op : HostOp) (k : Nat) (s : State) : State :=
  { s with status := ⟨true, false, false⟩, seq := ⟨some op, k⟩, turns := .block :: s.turns }

/-- The transport's next answer is `a`. -/
def withAnswer (a : Answer) (s : State) : State := { s with answers := a :: s.answers }

/-- `PBUF[0..len(v)) <- v`. -/
def withPbuf (v : List Byte) (s : State) : State :=
  { s with pbuf := Buf.ofFn fun i => v.getD i (s.pbuf.toList.getD i 0) }

/-- The host's next action is to write this value to `OP`. -/
def withOpWrite (v : Half) (s : State) : State :=
  { s with turns := .host (.write .op v) :: s.turns }

/-- What each row needs so that the next step runs it (log 9): a host operation is the host's next
write to `OP`; a command is the write step of an operation that sends it, its operands in the
registers and the write answered; a response is the answer to a reading step that takes it. -/
def placeInstr (i : Instr) (s : State) : State :=
  match i with
  | .start => withOpWrite 0x01 s
  | .upgrade => withOpWrite 0x02 s
  | .endFast => withOpWrite 0x03 s
  | .close => withOpWrite 0x04 s
  | .focus => withOpWrite 0x10 s
  | .shoot => withOpWrite 0x11 s
  | .readMem => withOpWrite 0x12 s
  | .writeMem => withOpWrite 0x13 s
  | .readMemoInfo => withOpWrite 0x14 s
  | .getRingAddrs => withOpWrite 0x20 s
  | .getMhAddrs => withOpWrite 0x21 s
  | .getMhSetting => withOpWrite 0x22 s
  | .wakeup => withAnswer (.ok []) (atStep .start 1 s)
  | .unitInquiry => withAnswer (.ok []) (atStep .start 4 s)
  | .cmdFocus => withAnswer (.ok []) (atStep .focus 1 s)
  | .cmdShoot => withAnswer (.ok []) (atStep .shoot 1 s)
  | .readMemory sp a n =>
    withAnswer (.ok []) (atStep .readMem 1 { s with aSpace := sp, aAddr := a, aLen := n })
  | .writeToMemory a v =>
    withAnswer (.ok []) (atStep .writeMem 1 (withPbuf v { s with aAddr := a, vlen := BitVec.ofNat 16 v.length }))
  | .eot => withAnswer (.ok []) (atStep .endFast 1 s)
  | .baudUp => withAnswer (.ok []) (atStep .upgrade 1 s)
  | .readMemoHolderInfo => withAnswer (.ok []) (atStep .readMemoInfo 1 s)
  | .okResponse => withAnswer (.ok Config.OK_RESP) (atStep .focus 2 s)
  | .unitIdResponse => withAnswer (.ok Config.UNIT_ID_RESP) (atStep .start 5 s)
  | .eotEcho => withAnswer (.ok Config.EOT_MARK) (atStep .endFast 2 s)
  | .dataPacket p =>
    withAnswer (.ok (serialize p)) (atStep .readMem 2 { s with aLen := BitVec.ofNat 8 p.length })

/-- A table word placed where the next step runs it. An 8-bit word that is no row's is an illegal `OP`
value and is written to `OP`; any other word that is no row's is not placed (log 9). -/
def placeWord (s : State) (nbits w : Nat) : State :=
  match decodeTableWord nbits w with
  | some i => placeInstr i s
  | none => if nbits = 8 then withOpWrite (BitVec.ofNat 16 (w % 256)) s else s

end Sys2Proof.Machine
end

