-- ==== Sys2Proof/Machine/Step.lean ====
section
/-! DEFINITION. One step of the machine, and the state whose next step runs a given table word. -/

namespace Sys2Proof.Machine

/-- One step: the host's next action, or one step of the running operation, or waiting. -/
def step (s : State) : Host.Outcome State Fault Refusal := takeTurn s

/-- `s` with one instruction of the opcode table placed where the next step runs it. -/
def State.withFetchWord (s : State) (nbits w : Nat) : State := placeWord s nbits w

end Sys2Proof.Machine
end

