-- ==== Sys2Proof/Machine/Subcommands.lean ====
section
/-! DEFINITION. Host calls in the notation of spec/30_encoding.md R93, and the operation sequences the
tool's subcommands stand for (R95, R96). -/

namespace Sys2Proof.Machine

/-- One operation with its operands: "the host writes the operand registers, then writes the code to
`OP`" (R93). -/
structure HostCall where
  operands : List (HostReg × Half)
  op : HostOp
  deriving DecidableEq, Repr

/-- The host's actions for one call (R93). -/
def HostCall.actions (c : HostCall) : List HostAction :=
  c.operands.map (fun rv => .write rv.1 rv.2) ++ [.write .op ((opCode c.op).setWidth 16)]

/-- `READ_MEM space=S addr=A len=L`. -/
def readCall (space : Byte) (address : Half) (length : Byte) : HostCall :=
  ⟨[(.aSpace, space.setWidth 16), (.aAddr, address), (.aLen, length.setWidth 16)], .readMem⟩

/-- The writes that put `values` into `PBUF`; the buffer takes the first 255. -/
def pbufWrites (values : List Byte) : List (HostReg × Half) :=
  (List.finRange 255).filterMap fun i => (values[i.val]?).map fun b => (.pbuf i, b.setWidth 16)

/-- `WRITE_MEM addr=A values=[V...]`; a list longer than `VLEN` can say is as much too long (R160). -/
def writeCall (address : Half) (values : List Byte) : HostCall :=
  ⟨[(.aAddr, address), (.vlen, BitVec.ofNat 16 (min values.length 65535))] ++ pbufWrites values, .writeMem⟩

/-- An operation without operands. -/
def bareCall (op : HostOp) : HostCall := ⟨[], op⟩

/-- The subcommands of R95; `<device>` is the transport's business. DESIGN CHOICE: the length of a `read` is
the byte `A_LEN` holds, so that one `READ_MEM` is one command; a read of more than 255 bytes cannot be
named, since whether the tool splits one "is not in the source" (R96, log 18). -/
inductive Subcommand where
  | read (address : Half) (length : Byte) (space : Byte) (fast : Bool)
  | write (address : Half) (values : List Byte) (fast : Bool)
  | focus
  | shoot
  | readMemoInfo
  deriving DecidableEq, Repr

/-- The calls of one subcommand around its ordinary operation, at either speed (R96). -/
def inSession (fast : Bool) (c : HostCall) : List HostCall :=
  if fast then [bareCall .start, bareCall .upgrade, c, bareCall .endFast, bareCall .close]
  else [bareCall .start, c, bareCall .close]

/-- The expansion of a subcommand: the table of R96. -/
def Subcommand.expand : Subcommand → List HostCall
  | .read a l sp fast => inSession fast (readCall sp a l)
  | .write a v fast => inSession fast (writeCall a v)
  | .focus => inSession false (bareCall .focus)
  | .shoot => inSession false (bareCall .shoot)
  | .readMemoInfo => inSession false (bareCall .readMemoInfo)

/-- `n` steps of the machine, stopping where it stops. -/
def stepFor : Nat → State → StepResult
  | 0, s => .next s
  | n + 1, s =>
    match step s with
    | .next t => stepFor n t
    | .fault r => .fault r
    | .refused r => .refused r

/-- The host makes one call and waits for it to end: an operation has at most 6 steps (R33, R225). -/
def runCall (c : HostCall) (s : State) : StepResult :=
  stepFor (c.actions.length + 6) { s with turns := c.actions.map .host }

/-- "A sequence stops at the first operation that ends with an error" (R96). -/
def runCalls : List HostCall → State → StepResult
  | [], s => .next s
  | c :: cs, s =>
    match runCall c s with
    | .next t => if t.status.err then .next t else runCalls cs t
    | .fault r => .fault r
    | .refused r => .refused r

/-- A subcommand, run from the state the tool finds. -/
def runSubcommand (c : Subcommand) (s : State) : StepResult := runCalls c.expand s

end Sys2Proof.Machine
end

