-- ==== Sys2Proof/Safety.lean ====
section
/-! DEFINITION. What claims about runs are stated in: the invariant of the block's state, and a host
that leaves a running operation alone (spec/70_reset_and_hazards.md R225). -/

namespace Sys2Proof.Machine

/-- `SS` and `BAUD` while step `k` of an operation is about to run (R140, R143 to R151). The two speed
changes happen one step before `SS` follows, which is the exception to R151 that log 16 records. -/
def sessionWhileRunning : HostOp → Nat → SessionState → LineSpeed → Prop
  | .start, k, x, b => b = .default ∧ ((k = 1 ∧ x = .idle) ∨ (2 ≤ k ∧ x = .awake))
  | .upgrade, k, x, b => x = .identified ∧ ((k ≤ 4 ∧ b = .default) ∨ (k = 5 ∧ b = .fast))
  | .endFast, k, x, b => x = .fastMode ∧ ((k ≤ 4 ∧ b = .fast) ∨ (k = 5 ∧ b = .default))
  | .close, _, x, b => x = .identified ∧ b = .default
  | .focus, _, x, b => (x = .identified ∧ b = .default) ∨ (x = .fastMode ∧ b = .fast)
  | .shoot, _, x, b => (x = .identified ∧ b = .default) ∨ (x = .fastMode ∧ b = .fast)
  | .readMem, _, x, b => (x = .identified ∧ b = .default) ∨ (x = .fastMode ∧ b = .fast)
  | .writeMem, _, x, b => (x = .identified ∧ b = .default) ∨ (x = .fastMode ∧ b = .fast)
  | .readMemoInfo, _, x, b => (x = .identified ∧ b = .default) ∨ (x = .fastMode ∧ b = .fast)
  | .getRingAddrs, _, x, b => (x = .identified ∧ b = .default) ∨ (x = .fastMode ∧ b = .fast)
  | .getMhAddrs, _, x, b => (x = .identified ∧ b = .default) ∨ (x = .fastMode ∧ b = .fast)
  | .getMhSetting, _, x, b => (x = .identified ∧ b = .default) ∨ (x = .fastMode ∧ b = .fast)

/-- `SS` and `BAUD` while no operation runs (R144, R151). -/
def sessionAtRest : SessionState → LineSpeed → Prop
  | .idle, b => b = .default
  | .awake, _ => False
  | .identified, b => b = .default
  | .fastMode, b => b = .fast
  | .closed, b => b = .default
  | .desync, _ => True

/-- The payload length a decode step finds in `RLEN` (R192). -/
def decodeLength : Decoder → Nat
  | .ring => 4
  | .mhAddrs => 6
  | .mhSetting => 1
  | .memoInfo => 4

/-- The invariant every step keeps. -/
structure Inv (s : State) : Prop where
  /-- "While `STATUS.BUSY` = 0, `SEQ` = `(none, 0)`" (R33). -/
  idleSeq : s.status.busy = false → s.seq = ⟨none, 0⟩
  /-- While busy, `SEQ` is at a step of the running operation's list (R33). -/
  busySeq : s.status.busy = true →
    ∃ op, s.seq.cur = some op ∧ 1 ≤ s.seq.step ∧ s.seq.step ≤ (stepList s op).length
  /-- "`BUSY` and `DONE` are never both 1" (R27). -/
  busyNotDone : s.status.busy = true → s.status.done = false
  /-- `ERR` is set together with `DONE` (R27). -/
  errDone : s.status.err = true → s.status.done = true
  /-- Without `ERR` the error registers are 0 (R28 to R30). -/
  noError : s.status.err = false → s.errcode = 0 ∧ s.errsub = 0 ∧ s.errstep = 0
  /-- With `ERR` they hold a kind and its sub-kind, and never `RangeError` (R190 to R192). -/
  anError : s.status.err = true →
    ∃ k, k ≠ .rangeError ∧ s.errcode = errorCode k ∧ s.errsub = errorSub k
  /-- `SS` and `BAUD` of a running operation (R140, R149, R151). -/
  runningSession : ∀ op, s.seq.cur = some op → sessionWhileRunning op s.seq.step s.ss s.baud
  /-- `SS` and `BAUD` between operations (R151). -/
  restSession : s.status.busy = false → sessionAtRest s.ss s.baud
  /-- A running `WRITE_MEM` has passed the check of its length (R141). -/
  writeFits : s.seq.cur = some .writeMem → s.vlen.toNat ≤ Config.WRITE_MAX
  /-- A decode step finds the payload it needs (R192). -/
  payloadReady : ∀ d, running s = some (.decode d) → s.rlen.toNat = decodeLength d

/-- The host does nothing in the turns still to come: it waits for the operation to end (R225). -/
def hostQuiet (s : State) : Bool := s.turns.all fun t => decide (t = .block)

/-- The host's next action is to apply reset. -/
def resetNext (s : State) : Bool :=
  match s.turns with
  | .host .reset :: _ => true
  | _ => false

/-- The next turn is the block's. -/
def blockNext (s : State) : Bool :=
  match s.turns with
  | [] => true
  | .block :: _ => true
  | .host _ :: _ => false

end Sys2Proof.Machine
end

