-- ==== Sys2Proof/Certificates/Slice0/Obligations.lean ====
section
/-! DEFINITION. The statements for the provers. Where a statement gives a state in full, every field it
does not name is unchanged: that is its frame. -/

namespace Sys2Proof.Claims

open Sys2Proof.Machine

/-- The most significant byte of an address, by arithmetic. -/
def hi (a : Half) : Byte := BitVec.ofNat 8 (a.toNat / 256)

/-- The least significant byte of an address, by arithmetic. -/
def lo (a : Half) : Byte := BitVec.ofNat 8 (a.toNat % 256)

/-- `k` steps of the host's machine lead from `s` to `t`. -/
def runs (k : Nat) (s t : State) : Prop := Host.Core.run Sys2Proof.core k s = .next t

/-- The instruction runs, and `k` steps after it lead to `t`. -/
def ranTo (i : Instr) (k : Nat) (s t : State) : Prop := ∃ u, exec i s = .next u ∧ runs k u t

/-- The state in which an accepted operation is at its first step (R141 A2, A4). -/
def started (op : HostOp) (s : State) : State :=
  { s with status := ⟨true, false, false⟩, errcode := 0, errsub := 0, errstep := 0, seq := ⟨some op, 1⟩ }

/-- The state after a refusal (R196). -/
def refused (code : Byte) (s : State) : State :=
  { s with status := ⟨false, true, true⟩, errcode := code, errsub := 0, errstep := 0 }

/-- The state after an operation of `k` steps has completed (R142), having used the answers before
`rest` and caused the events `evs`. -/
def completed (s : State) (k : Nat) (rest : List Answer) (evs : List Event) : State :=
  { s with
    status := ⟨false, true, false⟩, errcode := 0, errsub := 0, errstep := 0, seq := ⟨none, 0⟩
    turns := s.turns.drop k, answers := rest, trace := s.trace ++ evs }

/-- The state after an abort at step `k` (R197); `RBUF` and `RLEN` are free values. -/
def aborted (s : State) (k : Nat) (rest : List Answer) (evs : List Event) (code sub : Byte) : State :=
  { s with
    status := ⟨false, true, true⟩, errcode := code, errsub := sub, errstep := BitVec.ofNat 8 k
    ss := .desync, seq := ⟨none, 0⟩
    rbuf := freeBuf s.draws, rlen := Config.freeByte (s.draws + 255), draws := s.draws + 256
    turns := s.turns.drop k, answers := rest, trace := s.trace ++ evs }

/-- The block is idle, and the host leaves it alone until the operation has ended. -/
def free (s : State) : Prop := s.status.busy = false ∧ hostQuiet s = true

/-- The states that accept an ordinary operation (R140, R155). -/
def ordinary (s : State) : Prop := s.ss = .identified ∨ s.ss = .fastMode

/-- `t` is `s` after a completed operation that received the payload `p`: `RBUF[0..len)` is `p`, `RLEN`
its length, the rest of `RBUF` is unspecified (R25, R134). -/
def received (p : List Byte) (t : State) : Prop :=
  t.rbuf.toList.take p.length = p ∧ t.rlen.toNat = p.length

/-- Where the block sends each command: the operation and the step (R143 to R179). -/
def sentAt : Instr → List (HostOp × Nat)
  | .wakeup => [(.start, 1)]
  | .unitInquiry => [(.start, 4)]
  | .cmdFocus => [(.focus, 1)]
  | .cmdShoot => [(.shoot, 1)]
  | .readMemory _ _ _ => [(.readMem, 1), (.getRingAddrs, 1), (.getMhAddrs, 1), (.getMhSetting, 1)]
  | .writeToMemory _ _ => [(.writeMem, 1)]
  | .eot => [(.endFast, 1)]
  | .baudUp => [(.upgrade, 1)]
  | .readMemoHolderInfo => [(.readMemoInfo, 1)]
  | .start => []
  | .upgrade => []
  | .endFast => []
  | .close => []
  | .focus => []
  | .shoot => []
  | .readMem => []
  | .writeMem => []
  | .readMemoInfo => []
  | .getRingAddrs => []
  | .getMhAddrs => []
  | .getMhSetting => []
  | .okResponse => []
  | .unitIdResponse => []
  | .eotEcho => []
  | .dataPacket _ => []

/-- `ERRSUB` of a `FrameError`, as the table of R191 numbers them. -/
def frameCode : FrameErr → Byte
  | .tooShort => 1
  | .badStart => 2
  | .badEnd => 3
  | .badChecksum => 4

/-- `ERRSUB` of a `ValidationError`, as the table of R191 numbers them. -/
def validationCode : FixedResponse → Byte
  | .ok => 1
  | .unitId => 2
  | .eotEcho => 3

/-- The bytes each validator compares with (R131 to R133). -/
def responseBytes : FixedResponse → List Byte
  | .ok => [0x06, 0x00]
  | .unitId =>
    [0x31, 0x30, 0x32, 0x30, 0x46, 0x39, 0x30, 0x58, 0x2F, 0x4E, 0x39, 0x30, 0x53, 0x00, 0x03, 0x06]
  | .eotEcho => [0x04, 0x04]

/-- How many bytes a step asks of the transport, if it reads: 2, 16, or the payload length and 3 (R130). -/
def bytesAsked : Action → Option Nat
  | .expect .ok => some 2
  | .expect .unitId => some 16
  | .expect .eotEcho => some 2
  | .packet n => some (n + 3)
  | .send _ => none
  | .delay => none
  | .clear => none
  | .setBaud _ => none
  | .enter _ => none
  | .decode _ => none

/-- The errors R192 gives each operation: operation, step, `ERRCODE`, `ERRSUB`. -/
def errorTable : List (HostOp × Nat × Nat × Nat) :=
  [ (.start, 0, 8, 0), (.start, 1, 1, 0), (.start, 3, 1, 0), (.start, 4, 1, 0), (.start, 5, 1, 0), (.start, 5, 3, 2),
    (.upgrade, 0, 8, 0), (.upgrade, 1, 1, 0), (.upgrade, 2, 1, 0), (.upgrade, 2, 3, 1), (.upgrade, 4, 1, 0),
    (.endFast, 0, 8, 0), (.endFast, 1, 1, 0), (.endFast, 2, 1, 0), (.endFast, 2, 3, 3), (.endFast, 4, 1, 0),
    (.close, 0, 8, 0),
    (.focus, 0, 8, 0), (.focus, 1, 1, 0), (.focus, 2, 1, 0), (.focus, 2, 3, 1),
    (.shoot, 0, 8, 0), (.shoot, 1, 1, 0), (.shoot, 2, 1, 0), (.shoot, 2, 3, 1) ] ++
  [ (.readMem, 0, 8, 0), (.readMem, 1, 1, 0), (.readMem, 2, 1, 0),
    (.readMem, 2, 2, 1), (.readMem, 2, 2, 2), (.readMem, 2, 2, 3), (.readMem, 2, 2, 4),
    (.writeMem, 0, 8, 0), (.writeMem, 0, 4, 0), (.writeMem, 1, 1, 0), (.writeMem, 2, 1, 0), (.writeMem, 2, 3, 1),
    (.readMemoInfo, 0, 8, 0), (.readMemoInfo, 1, 1, 0), (.readMemoInfo, 2, 1, 0),
    (.readMemoInfo, 2, 2, 2), (.readMemoInfo, 2, 2, 3), (.readMemoInfo, 2, 2, 4), (.readMemoInfo, 3, 6, 0) ] ++
  [ (.getRingAddrs, 0, 8, 0), (.getRingAddrs, 1, 1, 0), (.getRingAddrs, 2, 1, 0),
    (.getRingAddrs, 2, 2, 2), (.getRingAddrs, 2, 2, 3), (.getRingAddrs, 2, 2, 4),
    (.getMhAddrs, 0, 8, 0), (.getMhAddrs, 1, 1, 0), (.getMhAddrs, 2, 1, 0),
    (.getMhAddrs, 2, 2, 2), (.getMhAddrs, 2, 2, 3), (.getMhAddrs, 2, 2, 4),
    (.getMhSetting, 0, 8, 0), (.getMhSetting, 1, 1, 0), (.getMhSetting, 2, 1, 0),
    (.getMhSetting, 2, 2, 2), (.getMhSetting, 2, 2, 3), (.getMhSetting, 2, 2, 4), (.getMhSetting, 3, 7, 0) ]

/-- The session states in which R140's table says "accepted". -/
def acceptedStates : HostOp → List SessionState
  | .start => [.idle]
  | .upgrade => [.identified]
  | .endFast => [.fastMode]
  | .close => [.identified]
  | .focus => [.identified, .fastMode]
  | .shoot => [.identified, .fastMode]
  | .readMem => [.identified, .fastMode]
  | .writeMem => [.identified, .fastMode]
  | .readMemoInfo => [.identified, .fastMode]
  | .getRingAddrs => [.identified, .fastMode]
  | .getMhAddrs => [.identified, .fastMode]
  | .getMhSetting => [.identified, .fastMode]

/-- The operation R90's table gives a value written to `OP`. -/
def operationOf (v : Nat) : Option HostOp :=
  if v = 0x01 then some .start else if v = 0x02 then some .upgrade else if v = 0x03 then some .endFast
  else if v = 0x04 then some .close else if v = 0x10 then some .focus else if v = 0x11 then some .shoot
  else if v = 0x12 then some .readMem else if v = 0x13 then some .writeMem
  else if v = 0x14 then some .readMemoInfo else if v = 0x20 then some .getRingAddrs
  else if v = 0x21 then some .getMhAddrs else if v = 0x22 then some .getMhSetting else none

/-- The `ReadMemory` command's bytes (R120). -/
def readBytes (space : Byte) (a : Half) (n : Byte) : List Byte :=
  [0x01, 0x20, 0x80, space, hi a, lo a, 0x00, n, 0x03]

/-- The `WriteToMemory` command's bytes (R121). -/
def writeBytes (a : Half) (v : List Byte) : List Byte :=
  [0x01, 0x20, 0x81, 0x00, hi a, lo a, 0x00, BitVec.ofNat 8 v.length] ++ ([0x02] ++ v ++ [checksum v] ++ [0x03])

/-- What the host reads of a register, as a number (R22 to R34; `OP` is write-only and reads 0, R26). -/
def holds (s : State) : HostReg → Nat
  | .op => 0
  | .status => s.status.busy.toNat + 2 * s.status.done.toNat + 4 * s.status.err.toNat
  | .errcode => s.errcode.toNat
  | .errsub => s.errsub.toNat
  | .errstep => s.errstep.toNat
  | .ss =>
    match s.ss with
    | .idle => 0
    | .awake => 1
    | .identified => 2
    | .fastMode => 3
    | .closed => 4
    | .desync => 5
  | .baud =>
    match s.baud with
    | .default => 0
    | .fast => 1
  | .aSpace => s.aSpace.toNat
  | .aLen => s.aLen.toNat
  | .aAddr => s.aAddr.toNat
  | .vlen => s.vlen.toNat
  | .rlen => s.rlen.toNat
  | .ringStart => s.ringStart.toNat
  | .ringEnd => s.ringEnd.toNat
  | .mhCurrent => s.mhCurrent.toNat
  | .mhStart => s.mhStart.toNat
  | .mhRollStart => s.mhRollStart.toNat
  | .mhSetting => s.mhSetting.toNat
  | .mhBpf => s.mhBpf.toNat
  | .rollId => s.rollId.toNat
  | .bytesToRead => s.bytesToRead.toNat
  | .pbuf i => s.pbuf[i].toNat
  | .rbuf i => s.rbuf[i].toNat

end Sys2Proof.Claims

open Sys2Proof Sys2Proof.Machine Sys2Proof.Claims

/-! ### Encodings -/

/-- Every well-formed instruction decodes back from its encoding, at its own port. For the two open
commands the premise says that their bytes are no other command's, which the spec leaves open (R126);
of `MEMO_INFO_CMD` it need not say so for the commands of the `0x01 0x20` family (R122, log 10). -/
def Obligations.WellFormedDecodesBack : Prop :=
  ∀ i : Instr, i.wellFormed = true →
    (i = .baudUp → ∀ j, decodeFixedCommand Config.baudUpCmd.bytes ≠ .ok j) →
    (i = .readMemoHolderInfo →
      Config.memoInfoCmd.bytes ∉ [[0x00], [0x53, 0x31, 0x30, 0x30, 0x30, 0x05], [0x04, 0x04]] ∧
      Config.memoInfoCmd.bytes ≠ Config.baudUpCmd.bytes) →
    ∃ bs, encode i = .ok bs ∧ decode i.port bs = .ok i

/-- What decodes at a port is the encoding of the well-formed instruction it decodes to. -/
def Obligations.DecodedBytesAreTheEncoding : Prop :=
  ∀ (p : Port) (bs : List Byte) (i : Instr), decode p bs = .ok i →
    i.wellFormed = true ∧ i.port = p ∧ encode i = .ok bs

/-- Words written out from the tables of R77 to R84 and R90. -/
def Obligations.WordsDecodeAsTheTablesSay : Prop :=
  decode .hostOp [0x13] = .ok .writeMem ∧
  decode .hostOp [0x00] = .error .illegalOp ∧
  decode .toDevice [0x00] = .ok .wakeup ∧
  decode .toDevice [0x01, 0x20, 0x86, 0, 0, 0, 0, 0, 0x03] = .ok .cmdFocus ∧
  decode .toDevice [0x01, 0x20, 0x80, 0xA1, 0xB2, 0xC3, 0x00, 0xD4, 0x03] = .ok (.readMemory 0xA1 0xB2C3 0xD4) ∧
  decode .toDevice [0x01, 0x20, 0x81, 0, 0xAA, 0xBB, 0, 3, 0x02, 0x0C, 0x0D, 0x0E, 0x27, 0x03] =
    .ok (.writeToMemory 0xAABB [0x0C, 0x0D, 0x0E]) ∧
  decode .toDevice [0x04, 0x04] = .ok .eot ∧
  decode .fromDevice [0x04, 0x04] = .ok .eotEcho ∧
  decode .fromDevice [0x02, 0x4E, 0x4E, 0x03] = .ok (.dataPacket [0x4E])

/-- The length of a command is found from its first bytes (R89). -/
def Obligations.CommandLengthFromItsBytes : Prop :=
  ∀ (i : Instr) (bs rest : List Byte), i.port = .toDevice → i ≠ .baudUp → i ≠ .readMemoHolderInfo →
    encode i = .ok bs →
    commandLength (bs ++ rest) = some bs.length ∧ decodeCommandStream (bs ++ rest) = .ok (i, rest)

/-- The lengths of R125 and the ends of the `CMD9` and `WR` results. -/
def Obligations.EncodedCommandLengths : Prop :=
  (∀ bs, encode .wakeup = .ok bs → bs.length = 1) ∧
  (∀ bs, encode .unitInquiry = .ok bs → bs.length = 6) ∧
  (∀ bs, encode .eot = .ok bs → bs.length = 2) ∧
  (∀ bs, encode .baudUp = .ok bs → bs.length = Config.baudUpCmd.bytes.length) ∧
  (∀ bs, encode .readMemoHolderInfo = .ok bs → bs.length = Config.memoInfoCmd.bytes.length) ∧
  (∀ i bs, (i = .cmdFocus ∨ i = .cmdShoot ∨ ∃ s a n, i = .readMemory s a n) → encode i = .ok bs →
    bs.length = 9 ∧ bs.take 2 = [0x01, 0x20] ∧ bs.getLast? = some 0x03) ∧
  (∀ a v bs, encode (.writeToMemory a v) = .ok bs →
    bs.length = 11 + v.length ∧ 11 ≤ bs.length ∧ bs.length ≤ 266 ∧
    bs.take 2 = [0x01, 0x20] ∧ bs.getLast? = some 0x03)

/-- Different commands have different bytes, the two open commands apart, and the length byte of a
`WriteToMemory` is the length of its packet's payload (R126). -/
def Obligations.CommandsHaveDifferentBytes : Prop :=
  (∀ (i j : Instr) (bs : List Byte), i.port = .toDevice → j.port = .toDevice →
    i ≠ .baudUp → i ≠ .readMemoHolderInfo → j ≠ .baudUp → j ≠ .readMemoHolderInfo →
    encode i = .ok bs → encode j = .ok bs → i = j) ∧
  (∀ a v bs, encode (.writeToMemory a v) = .ok bs → (bs.getD 7 0).toNat = v.length)

/-- The bytes of every command the source fixes, for every operand (R116 to R121, R124). -/
def Obligations.CommandBytes : Prop :=
  encode .wakeup = .ok [0x00] ∧
  encode .unitInquiry = .ok [0x53, 0x31, 0x30, 0x30, 0x30, 0x05] ∧
  encode .cmdFocus = .ok [0x01, 0x20, 0x86, 0x00, 0x00, 0x00, 0x00, 0x00, 0x03] ∧
  encode .cmdShoot = .ok [0x01, 0x20, 0x85, 0x00, 0x00, 0x00, 0x00, 0x00, 0x03] ∧
  encode .eot = .ok [0x04, 0x04] ∧
  (∀ s a n, encode (.readMemory s a n) = .ok (readBytes s a n)) ∧
  (∀ a v, v.length ≤ 255 → encode (.writeToMemory a v) = .ok (writeBytes a v)) ∧
  (∀ a v, 255 < v.length → encode (.writeToMemory a v) = .error .encodingError)

/-! ### The packet codec -/

/-- The incremental checksum is the sum modulo 255, for payloads of every length (R103). -/
def Obligations.ChecksumIsTheSumMod255 : Prop :=
  ∀ p : List Byte, (checksum p).toNat = (p.map BitVec.toNat).sum % 255

/-- No checksum is 0xFF, and a frame whose checksum byte is 0xFF is rejected (R102). -/
def Obligations.ChecksumIsNeverFF : Prop :=
  (∀ p : List Byte, (checksum p).toNat ≤ 254) ∧
  (∀ f : List Byte, f[f.length - 2]? = some 0xFF → ∃ k, deserialize f = .error k)

/-- The shape of a serialized payload (R105). -/
def Obligations.SerializedShape : Prop :=
  ∀ p : List Byte,
    (serialize p).length = p.length + 3 ∧
    (serialize p)[0]? = some 0x02 ∧
    (serialize p)[(serialize p).length - 1]? = some 0x03 ∧
    (serialize p)[(serialize p).length - 2]? = some (checksum p) ∧
    slice (serialize p) 1 ((serialize p).length - 2) = p

/-- Which error a rejected frame gives: the four checks in their order (R106). -/
def Obligations.FrameChecksInOrder : Prop :=
  ∀ f : List Byte,
    (deserialize f = .error .tooShort ↔ f.length < 4) ∧
    (deserialize f = .error .badStart ↔ 4 ≤ f.length ∧ f.head? ≠ some 0x02) ∧
    (deserialize f = .error .badEnd ↔ 4 ≤ f.length ∧ f.head? = some 0x02 ∧ f.getLast? ≠ some 0x03) ∧
    (deserialize f = .error .badChecksum ↔
      4 ≤ f.length ∧ f.head? = some 0x02 ∧ f.getLast? = some 0x03 ∧
      f[f.length - 2]? ≠ some (checksum ((f.drop 1).take (f.length - 3)))) ∧
    (∀ p, deserialize f = .ok p → p = (f.drop 1).take (f.length - 3) ∧ p.length = f.length - 3)

/-- The round trip holds for every payload but the empty one, which like everything shorter than 4 bytes
is too short to be read back (R107, R108; 90_conflicts.md C1). -/
def Obligations.NonemptyPayloadRoundTrips : Prop :=
  (∀ p : List Byte, 1 ≤ p.length → deserialize (serialize p) = .ok p) ∧
  (∀ f : List Byte, f.length < 4 → deserialize f = .error .tooShort) ∧
  deserialize (serialize []) = .error .tooShort

/-- A frame is accepted exactly when it is the frame of a non-empty payload (R109). -/
def Obligations.AcceptedFramesAreSerialized : Prop :=
  ∀ f p : List Byte, deserialize f = .ok p ↔ 1 ≤ p.length ∧ f = serialize p

/-- What one changed byte of a valid frame does, the blind spot of the modulus included (R110). -/
def Obligations.OneChangedByte : Prop :=
  ∀ (p : List Byte) (i : Nat) (old v : Byte), 1 ≤ p.length → (serialize p)[i]? = some old → v ≠ old →
    (i = 0 → deserialize ((serialize p).set i v) = .error .badStart) ∧
    (i = p.length + 2 → deserialize ((serialize p).set i v) = .error .badEnd) ∧
    (i = p.length + 1 → deserialize ((serialize p).set i v) = .error .badChecksum) ∧
    (1 ≤ i → i ≤ p.length →
      ((old = 0x00 ∧ v = 0xFF) ∨ (old = 0xFF ∧ v = 0x00) →
        deserialize ((serialize p).set i v) = .ok (p.set (i - 1) v)) ∧
      (¬((old = 0x00 ∧ v = 0xFF) ∨ (old = 0xFF ∧ v = 0x00)) →
        deserialize ((serialize p).set i v) = .error .badChecksum))

/-- The byte-serial datapath of R111, with its 9-bit adder and single subtraction, computes the
checksum. -/
def Obligations.DatapathComputesTheChecksum : Prop :=
  ∀ p : List Byte, checksumDatapath p = checksum p

/-! ### The telemetry decoders -/

/-- `read_u16_le` by arithmetic, and when it fails (R170). -/
def Obligations.LittleEndianWord : Prop :=
  ∀ (b : List Byte) (o : Nat),
    (∀ x y, b[o]? = some x → b[o + 1]? = some y →
      ∃ v, readU16le b o = .ok v ∧ v.toNat = x.toNat + 256 * y.toNat) ∧
    (b.length ≤ o + 1 ↔ readU16le b o = .error .rangeError)

/-- `read_4_digit_bcd` by the decimal digits of the word's hexadecimal numeral (R171). -/
def Obligations.BcdWord : Prop :=
  ∀ v : Half,
    let d := fun k => v.toNat / 16 ^ k % 16
    ((d 0 ≤ 9 ∧ d 1 ≤ 9 ∧ d 2 ≤ 9 ∧ d 3 ≤ 9) →
      readBcd4 v = .ok (d 0 + d 1 * 10 + d 2 * 100 + d 3 * 1000) ∧
      d 0 + d 1 * 10 + d 2 * 100 + d 3 * 1000 ≤ 9999) ∧
    (¬(d 0 ≤ 9 ∧ d 1 ≤ 9 ∧ d 2 ≤ 9 ∧ d 3 ≤ 9) → readBcd4 v = .error .bcdError)

/-! ### Acceptance -/

/-- A write to `OP`, every value, in every state: ignored while busy, then the checks in their order,
then the start (R141, R196, R90, R91). That `OP` takes the low 8 bits of a wider value is the model's
choice (log 11). -/
def Obligations.WritingOpFollowsTheProcedure : Prop :=
  ∀ (s : State) (v : Half) (rest : List Turn), s.turns = .host (.write .op v) :: rest →
    step s = .next
      (if s.status.busy = true then { s with turns := rest }
       else
         match operationOf (v.toNat % 256) with
         | none => refused 9 { s with turns := rest }
         | some op =>
           if s.ss ∉ acceptedStates op then refused 8 { s with turns := rest }
           else if op = .writeMem ∧ 255 < s.vlen.toNat then refused 4 { s with turns := rest }
           else started op { s with turns := rest })

/-- Each host operation starts exactly in the session states of R140's table; in every other it is
refused with `StateError` and nothing but the flags and error registers changes (R140). -/
def Obligations.OperationsStartInTheirStates : Prop :=
  ∀ (op : HostOp) (s : State), s.status.busy = false →
    (s.ss ∈ acceptedStates op → (op = .writeMem → s.vlen.toNat ≤ 255) →
      exec (opInstr op) s = .next (started op s)) ∧
    (s.ss ∉ acceptedStates op → exec (opInstr op) s = .next (refused 8 s))

/-! ### The operations, from the `OP` write to their end -/

/-- START, whole: success and every error (R143). -/
def Obligations.StartRunsTheHandshake : Prop :=
  ∀ (s : State) (d1 d3 d4 r : List Byte) (rest : List Answer), free s → s.ss = .idle →
    (s.answers = .err :: rest →
      ranTo .start 1 s (aborted s 1 rest [.write [0x00] false] 1 0)) ∧
    (s.answers = .ok d1 :: .err :: rest →
      ranTo .start 3 s (aborted s 3 rest [.write [0x00] true, .delay 200, .clear false] 1 0)) ∧
    (s.answers = .ok d1 :: .ok d3 :: .err :: rest →
      ranTo .start 4 s (aborted s 4 rest
        [.write [0x00] true, .delay 200, .clear true, .write [0x53, 0x31, 0x30, 0x30, 0x30, 0x05] false] 1 0)) ∧
    (s.answers = .ok d1 :: .ok d3 :: .ok d4 :: .err :: rest →
      ranTo .start 5 s (aborted s 5 rest
        [.write [0x00] true, .delay 200, .clear true, .write [0x53, 0x31, 0x30, 0x30, 0x30, 0x05] true,
         .read 16 none] 1 0)) ∧
    (s.answers = .ok d1 :: .ok d3 :: .ok d4 :: .ok r :: rest → r.length = 16 →
      (r ≠ Config.UNIT_ID_RESP →
        ranTo .start 5 s (aborted s 5 rest
          [.write [0x00] true, .delay 200, .clear true, .write [0x53, 0x31, 0x30, 0x30, 0x30, 0x05] true,
           .read 16 (some r)] 3 2)) ∧
      (r = Config.UNIT_ID_RESP →
        ranTo .start 6 s
          { completed s 6 rest
              [.write [0x00] true, .delay 200, .clear true, .write [0x53, 0x31, 0x30, 0x30, 0x30, 0x05] true,
               .read 16 (some r)] with ss := .identified }))

/-- UPGRADE, whole: success and every error; a failed speed change leaves `BAUD` a free value (R145). -/
def Obligations.UpgradeRunsToFastMode : Prop :=
  ∀ (s : State) (d1 d4 r : List Byte) (rest : List Answer), free s → s.ss = .identified →
    (s.answers = .err :: rest →
      ranTo .upgrade 1 s (aborted s 1 rest [.write Config.baudUpCmd.bytes false] 1 0)) ∧
    (s.answers = .ok d1 :: .err :: rest →
      ranTo .upgrade 2 s (aborted s 2 rest [.write Config.baudUpCmd.bytes true, .read 2 none] 1 0)) ∧
    (s.answers = .ok d1 :: .ok r :: rest → r.length = 2 → r ≠ [0x06, 0x00] →
      ranTo .upgrade 2 s (aborted s 2 rest [.write Config.baudUpCmd.bytes true, .read 2 (some r)] 3 1)) ∧
    (s.answers = .ok d1 :: .ok [0x06, 0x00] :: .err :: rest →
      ranTo .upgrade 4 s
        { aborted { s with draws := s.draws + 1 } 4 rest
            [.write Config.baudUpCmd.bytes true, .read 2 (some [0x06, 0x00]), .delay 200, .setBaud 9600 false] 1 0
          with baud := Config.freeSpeed s.draws }) ∧
    (s.answers = .ok d1 :: .ok [0x06, 0x00] :: .ok d4 :: rest →
      ranTo .upgrade 5 s
        { completed s 5 rest
            [.write Config.baudUpCmd.bytes true, .read 2 (some [0x06, 0x00]), .delay 200, .setBaud 9600 true]
          with ss := .fastMode, baud := .fast })

/-- END_FAST, whole: success and every error; after a wrong echo the speed is not restored (R147). -/
def Obligations.EndFastRunsBackToIdentified : Prop :=
  ∀ (s : State) (d1 d4 r : List Byte) (rest : List Answer), free s → s.ss = .fastMode →
    (s.answers = .err :: rest →
      ranTo .endFast 1 s (aborted s 1 rest [.write [0x04, 0x04] false] 1 0)) ∧
    (s.answers = .ok d1 :: .err :: rest →
      ranTo .endFast 2 s (aborted s 2 rest [.write [0x04, 0x04] true, .read 2 none] 1 0)) ∧
    (s.answers = .ok d1 :: .ok r :: rest → r.length = 2 → r ≠ [0x04, 0x04] →
      ranTo .endFast 2 s (aborted s 2 rest [.write [0x04, 0x04] true, .read 2 (some r)] 3 3)) ∧
    (s.answers = .ok d1 :: .ok [0x04, 0x04] :: .err :: rest →
      ranTo .endFast 4 s
        { aborted { s with draws := s.draws + 1 } 4 rest
            [.write [0x04, 0x04] true, .read 2 (some [0x04, 0x04]), .delay 200, .setBaud 1200 false] 1 0
          with baud := Config.freeSpeed s.draws }) ∧
    (s.answers = .ok d1 :: .ok [0x04, 0x04] :: .ok d4 :: rest →
      ranTo .endFast 5 s
        { completed s 5 rest
            [.write [0x04, 0x04] true, .read 2 (some [0x04, 0x04]), .delay 200, .setBaud 1200 true]
          with ss := .identified, baud := .default })

/-- CLOSE ends the session and sends nothing; in fast mode it is refused (R148). -/
def Obligations.CloseEndsTheSession : Prop :=
  ∀ s : State, free s →
    (s.ss = .identified → ranTo .close 1 s { completed s 1 s.answers [] with ss := .closed }) ∧
    (s.ss = .fastMode → exec .close s = .next (refused 8 s))

/-- FOCUS and SHOOT, whole: success and every error (R156, R157). -/
def Obligations.FocusAndShootExchange : Prop :=
  ∀ (s : State) (i : Instr) (opc : Byte) (d1 r : List Byte) (rest : List Answer), free s → ordinary s →
    ((i = .focus ∧ opc = 0x86) ∨ (i = .shoot ∧ opc = 0x85)) →
    (s.answers = .err :: rest →
      ranTo i 1 s (aborted s 1 rest [.write [0x01, 0x20, opc, 0, 0, 0, 0, 0, 0x03] false] 1 0)) ∧
    (s.answers = .ok d1 :: .err :: rest →
      ranTo i 2 s (aborted s 2 rest [.write [0x01, 0x20, opc, 0, 0, 0, 0, 0, 0x03] true, .read 2 none] 1 0)) ∧
    (s.answers = .ok d1 :: .ok r :: rest → r.length = 2 → r ≠ [0x06, 0x00] →
      ranTo i 2 s (aborted s 2 rest
        [.write [0x01, 0x20, opc, 0, 0, 0, 0, 0, 0x03] true, .read 2 (some r)] 3 1)) ∧
    (s.answers = .ok d1 :: .ok [0x06, 0x00] :: rest →
      ranTo i 2 s (completed s 2 rest
        [.write [0x01, 0x20, opc, 0, 0, 0, 0, 0, 0x03] true, .read 2 (some [0x06, 0x00])]))

/-- READ_MEM, whole: the command of the three operand registers, then a packet of `A_LEN` bytes, or an
error (R158). -/
def Obligations.ReadMemExchange : Prop :=
  ∀ (s : State) (d1 f : List Byte) (rest : List Answer), free s → ordinary s →
    (s.answers = .err :: rest →
      ranTo .readMem 1 s (aborted s 1 rest [.write (readBytes s.aSpace s.aAddr s.aLen) false] 1 0)) ∧
    (s.answers = .ok d1 :: .err :: rest →
      ranTo .readMem 2 s (aborted s 2 rest
        [.write (readBytes s.aSpace s.aAddr s.aLen) true, .read (s.aLen.toNat + 3) none] 1 0)) ∧
    (s.answers = .ok d1 :: .ok f :: rest → f.length = s.aLen.toNat + 3 →
      (∀ k, deserialize f = .error k →
        ranTo .readMem 2 s (aborted s 2 rest
          [.write (readBytes s.aSpace s.aAddr s.aLen) true, .read (s.aLen.toNat + 3) (some f)] 2 (frameCode k))) ∧
      (∀ p, deserialize f = .ok p →
        ∃ t, ranTo .readMem 2 s t ∧ received p t ∧ p.length = s.aLen.toNat ∧
          t = { completed s 2 rest
                  [.write (readBytes s.aSpace s.aAddr s.aLen) true, .read (s.aLen.toNat + 3) (some f)]
                with rbuf := t.rbuf, rlen := t.rlen, draws := t.draws }))

/-- READ_MEM with `A_LEN` = 0 sends its command, asks for 3 bytes and never succeeds, whatever they are
(R159 (a)). -/
def Obligations.ReadOfNothingNeverSucceeds : Prop :=
  ∀ (s : State) (d1 f : List Byte) (rest : List Answer), free s → ordinary s → s.aLen = 0 →
    s.answers = .ok d1 :: .ok f :: rest → f.length = 3 →
    ranTo .readMem 2 s (aborted s 2 rest
      [.write (readBytes s.aSpace s.aAddr 0) true, .read 3 (some f)] 2 1)

/-- WRITE_MEM, whole: refused on `VLEN` alone, or one write of header and packet and an OK, or an error
(R160). -/
def Obligations.WriteMemExchange : Prop :=
  ∀ (s : State) (v d1 r : List Byte) (rest : List Answer), free s → ordinary s →
    (255 < s.vlen.toNat → exec .writeMem s = .next (refused 4 s)) ∧
    (s.vlen.toNat ≤ 255 → v = s.pbuf.toList.take s.vlen.toNat →
      v.length = s.vlen.toNat ∧
      (s.answers = .err :: rest →
        ranTo .writeMem 1 s (aborted s 1 rest [.write (writeBytes s.aAddr v) false] 1 0)) ∧
      (s.answers = .ok d1 :: .err :: rest →
        ranTo .writeMem 2 s (aborted s 2 rest [.write (writeBytes s.aAddr v) true, .read 2 none] 1 0)) ∧
      (s.answers = .ok d1 :: .ok r :: rest → r.length = 2 → r ≠ [0x06, 0x00] →
        ranTo .writeMem 2 s (aborted s 2 rest [.write (writeBytes s.aAddr v) true, .read 2 (some r)] 3 1)) ∧
      (s.answers = .ok d1 :: .ok [0x06, 0x00] :: rest →
        ranTo .writeMem 2 s (completed s 2 rest
          [.write (writeBytes s.aAddr v) true, .read 2 (some [0x06, 0x00])])))

/-- READ_MEMO_INFO, whole: the packet, then the BCD roll number and the byte count, or an error (R163). -/
def Obligations.ReadMemoInfoExchange : Prop :=
  ∀ (s : State) (d1 f : List Byte) (rest : List Answer), free s → ordinary s →
    (s.answers = .err :: rest →
      ranTo .readMemoInfo 1 s (aborted s 1 rest [.write Config.memoInfoCmd.bytes false] 1 0)) ∧
    (s.answers = .ok d1 :: .err :: rest →
      ranTo .readMemoInfo 2 s (aborted s 2 rest [.write Config.memoInfoCmd.bytes true, .read 7 none] 1 0)) ∧
    (s.answers = .ok d1 :: .ok f :: rest → f.length = 7 →
      (∀ k, deserialize f = .error k →
        ranTo .readMemoInfo 2 s (aborted s 2 rest
          [.write Config.memoInfoCmd.bytes true, .read 7 (some f)] 2 (frameCode k))) ∧
      (∀ a b c e : Byte, deserialize f = .ok [a, b, c, e] →
        let good := a.toNat % 16 ≤ 9 ∧ a.toNat / 16 ≤ 9 ∧ b.toNat % 16 ≤ 9 ∧ b.toNat / 16 ≤ 9
        (¬ good →
          ranTo .readMemoInfo 3 s (aborted { s with draws := s.draws + 255 } 3 rest
            [.write Config.memoInfoCmd.bytes true, .read 7 (some f)] 6 0)) ∧
        (good →
          ∃ t, ranTo .readMemoInfo 3 s t ∧ received [a, b, c, e] t ∧
            t.rollId.toNat = a.toNat % 16 + a.toNat / 16 * 10 + b.toNat % 16 * 100 + b.toNat / 16 * 1000 ∧
            t.bytesToRead.toNat = c.toNat + 256 * e.toNat ∧
            t = { completed s 3 rest [.write Config.memoInfoCmd.bytes true, .read 7 (some f)]
                  with rbuf := t.rbuf, rlen := t.rlen, draws := t.draws,
                       rollId := t.rollId, bytesToRead := t.bytesToRead })))

/-- GET_RING_ADDRS, whole: four bytes from 0xFD00, `start` then `end`, or an error (R177). -/
def Obligations.GetRingAddrsExchange : Prop :=
  ∀ (s : State) (d1 f : List Byte) (rest : List Answer), free s → ordinary s →
    let w := [0x01, 0x20, 0x80, Config.telemSpace, 0xFD, 0x00, 0x00, 0x04, 0x03]
    (s.answers = .err :: rest →
      ranTo .getRingAddrs 1 s (aborted s 1 rest [.write w false] 1 0)) ∧
    (s.answers = .ok d1 :: .err :: rest →
      ranTo .getRingAddrs 2 s (aborted s 2 rest [.write w true, .read 7 none] 1 0)) ∧
    (s.answers = .ok d1 :: .ok f :: rest → f.length = 7 →
      (∀ k, deserialize f = .error k →
        ranTo .getRingAddrs 2 s (aborted s 2 rest [.write w true, .read 7 (some f)] 2 (frameCode k))) ∧
      (∀ a b c e : Byte, deserialize f = .ok [a, b, c, e] →
        ∃ t, ranTo .getRingAddrs 3 s t ∧ received [a, b, c, e] t ∧
          t.ringStart.toNat = a.toNat + 256 * b.toNat ∧ t.ringEnd.toNat = c.toNat + 256 * e.toNat ∧
          t = { completed s 3 rest [.write w true, .read 7 (some f)]
                with rbuf := t.rbuf, rlen := t.rlen, draws := t.draws,
                     ringStart := t.ringStart, ringEnd := t.ringEnd }))

/-- GET_MH_ADDRS, whole: six bytes from 0xFD42, `current`, `start`, `current_roll_start`, or an error
(R178). -/
def Obligations.GetMhAddrsExchange : Prop :=
  ∀ (s : State) (d1 f : List Byte) (rest : List Answer), free s → ordinary s →
    let w := [0x01, 0x20, 0x80, Config.telemSpace, 0xFD, 0x42, 0x00, 0x06, 0x03]
    (s.answers = .err :: rest →
      ranTo .getMhAddrs 1 s (aborted s 1 rest [.write w false] 1 0)) ∧
    (s.answers = .ok d1 :: .err :: rest →
      ranTo .getMhAddrs 2 s (aborted s 2 rest [.write w true, .read 9 none] 1 0)) ∧
    (s.answers = .ok d1 :: .ok f :: rest → f.length = 9 →
      (∀ k, deserialize f = .error k →
        ranTo .getMhAddrs 2 s (aborted s 2 rest [.write w true, .read 9 (some f)] 2 (frameCode k))) ∧
      (∀ a b c e g h : Byte, deserialize f = .ok [a, b, c, e, g, h] →
        ∃ t, ranTo .getMhAddrs 3 s t ∧ received [a, b, c, e, g, h] t ∧
          t.mhCurrent.toNat = a.toNat + 256 * b.toNat ∧ t.mhStart.toNat = c.toNat + 256 * e.toNat ∧
          t.mhRollStart.toNat = g.toNat + 256 * h.toNat ∧
          t = { completed s 3 rest [.write w true, .read 9 (some f)]
                with rbuf := t.rbuf, rlen := t.rlen, draws := t.draws,
                     mhCurrent := t.mhCurrent, mhStart := t.mhStart, mhRollStart := t.mhRollStart }))

/-- GET_MH_SETTING, whole: one byte from 0xFD40, decoded flag first, with its bytes per frame, or an
error (R179, R172, R173). -/
def Obligations.GetMhSettingExchange : Prop :=
  ∀ (s : State) (d1 f : List Byte) (rest : List Answer), free s → ordinary s →
    let w := [0x01, 0x20, 0x80, Config.telemSpace, 0xFD, 0x40, 0x00, 0x01, 0x03]
    (s.answers = .err :: rest →
      ranTo .getMhSetting 1 s (aborted s 1 rest [.write w false] 1 0)) ∧
    (s.answers = .ok d1 :: .err :: rest →
      ranTo .getMhSetting 2 s (aborted s 2 rest [.write w true, .read 4 none] 1 0)) ∧
    (s.answers = .ok d1 :: .ok f :: rest → f.length = 4 →
      (∀ k, deserialize f = .error k →
        ranTo .getMhSetting 2 s (aborted s 2 rest [.write w true, .read 4 (some f)] 2 (frameCode k))) ∧
      (∀ x : Byte, deserialize f = .ok [x] →
        (∀ (m : BitVec 2) (n : BitVec 3),
          ((x.getLsbD 6 = false ∧ m = 0 ∧ n = 0) ∨ (x = 0x45 ∧ m = 1 ∧ n = 2) ∨
           (x = 0x4E ∧ m = 2 ∧ n = 4) ∨ (x = 0x5F ∧ m = 3 ∧ n = 6)) →
          ∃ t, ranTo .getMhSetting 3 s t ∧ received [x] t ∧
            t = { completed s 3 rest [.write w true, .read 4 (some f)]
                  with rbuf := t.rbuf, rlen := t.rlen, draws := t.draws, mhSetting := m, mhBpf := n }) ∧
        (x.getLsbD 6 = true → x ≠ 0x45 → x ≠ 0x4E → x ≠ 0x5F →
          ranTo .getMhSetting 3 s (aborted { s with draws := s.draws + 255 } 3 rest
            [.write w true, .read 4 (some f)] 7 0))))

/-! ### The wire rows, one step each -/

/-- A wire command at the step that sends it is one write of its bytes, then the next step; `Wakeup`
enters `Awake` besides; nothing else changes. That the row runs as its sending step, with the operands it
carries, is the model's reading (log 6). -/
def Obligations.WireCommandIsOneWrite : Prop :=
  ∀ (i : Instr) (op : HostOp) (k : Nat) (s : State) (bs d : List Byte) (rest : List Answer),
    (op, k) ∈ sentAt i → s.status.busy = true → s.seq = ⟨some op, k⟩ → encode i = .ok bs →
    s.answers = .ok d :: rest →
    exec i s = .next
      { s with
        ss := if i = .wakeup then .awake else s.ss
        seq := ⟨some op, k + 1⟩
        answers := rest
        trace := s.trace ++ [.write bs true] }

/-- A wire command whose write fails aborts the operation at that step with `TransportError`; one too
long to encode writes nothing and ends the operation as a refusal does (log 6). -/
def Obligations.WireCommandWriteFails : Prop :=
  ∀ (i : Instr) (op : HostOp) (k : Nat) (s : State) (bs : List Byte) (rest : List Answer),
    (op, k) ∈ sentAt i → s.status.busy = true → s.seq = ⟨some op, k⟩ →
    (encode i = .ok bs → s.answers = .err :: rest →
      exec i s = .next { aborted s k rest [.write bs false] 1 0 with turns := s.turns }) ∧
    (encode i = .error .encodingError →
      exec i s = .next { refused 4 s with seq := ⟨none, 0⟩ })

/-- The block sends a command only at its own step: elsewhere the nine wire commands change nothing (the
model's reading, log 6). -/
def Obligations.WireCommandElsewhereSendsNothing : Prop :=
  ∀ (i : Instr) (s : State), i.port = .toDevice →
    (s.status.busy = false ∨ ∀ op k, (op, k) ∈ sentAt i → s.seq ≠ ⟨some op, k⟩) → exec i s = .next s

/-- The three fixed responses, each at the steps that expect it: the operation goes on, or completes
when that was its last step. That the row runs as its arrival is the model's reading (log 7). -/
def Obligations.FixedResponseAccepted : Prop :=
  ∀ (i : Instr) (r : List Byte) (op : HostOp) (k : Nat) (s : State), s.status.busy = true →
    s.seq = ⟨some op, k⟩ →
    ((i, r, op, k) ∈ ([(.unitIdResponse, Config.UNIT_ID_RESP, .start, 5), (.okResponse, [0x06, 0x00], .upgrade, 2),
        (.eotEcho, [0x04, 0x04], .endFast, 2)] : List (Instr × List Byte × HostOp × Nat)) →
      exec i s = .next
        { s with seq := ⟨some op, k + 1⟩, trace := s.trace ++ [.read r.length (some r)] }) ∧
    ((i, r, op, k) ∈ ([(.okResponse, [0x06, 0x00], .focus, 2), (.okResponse, [0x06, 0x00], .shoot, 2),
        (.okResponse, [0x06, 0x00], .writeMem, 2)] : List (Instr × List Byte × HostOp × Nat)) →
      exec i s = .next
        { s with
          seq := ⟨none, 0⟩, status := ⟨false, true, s.status.err⟩
          trace := s.trace ++ [.read r.length (some r)] })

/-- A data packet of the length the step asks for: its payload is in `RBUF` and `RLEN`, and the
operation goes on, or completes when that was its last step. That the row runs as its arrival is the
model's reading (log 7). -/
def Obligations.DataPacketAccepted : Prop :=
  ∀ (p : List Byte) (op : HostOp) (n : Nat) (s : State), s.status.busy = true → s.seq = ⟨some op, 2⟩ →
    ((op, n) ∈ [(HostOp.readMem, s.aLen.toNat), (.readMemoInfo, 4), (.getRingAddrs, 4), (.getMhAddrs, 6),
        (.getMhSetting, 1)]) →
    p.length = n → 1 ≤ n →
    ∃ t, exec (.dataPacket p) s = .next t ∧ received p t ∧
      t = { s with
            rbuf := t.rbuf, rlen := t.rlen, draws := t.draws
            seq := if op = .readMem then ⟨none, 0⟩ else ⟨some op, 3⟩
            status := if op = .readMem then ⟨false, true, s.status.err⟩ else s.status
            trace := s.trace ++ [.read (n + 3) (some ([0x02] ++ p ++ [checksum p] ++ [0x03]))] }

/-- What the device sends when no step is reading changes nothing in the block (the model's reading,
log 7). -/
def Obligations.UnaskedResponseChangesNothing : Prop :=
  ∀ (i : Instr) (s : State), i.port = .fromDevice →
    (∀ r, running s ≠ some (.expect r)) → (∀ n, running s ≠ some (.packet n)) → exec i s = .next s

/-- A step runs the instruction that is decoded or fetched: the host's `OP` value, the command of the
running step, or the response the transport answers with; the turn, and the answer, are used up. The
first clause takes the low 8 bits of the value (log 11); that a wire row is its sending step and a
response row its arrival are the model's readings (log 6, log 7). -/
def Obligations.StepRunsTheInstruction : Prop :=
  (∀ (s : State) (v : Half) (rest : List Turn) (i : Instr),
    s.turns = .host (.write .op v) :: rest → decode .hostOp [v.setWidth 8] = .ok i →
    step s = exec i { s with turns := rest }) ∧
  (∀ (s : State) (i : Instr), blockNext s = true → s.status.busy = true →
    currentAction s = some (.send i) → step s = exec i { s with turns := s.turns.drop 1 }) ∧
  (∀ (s : State) (a : Action) (r : List Byte) (rest : List Answer) (i : Instr),
    blockNext s = true → s.status.busy = true → currentAction s = some a →
    ((∃ x, a = .expect x) ∨ ∃ n, a = .packet n) → s.answers = .ok r :: rest →
    decode .fromDevice r = .ok i →
    step s = exec i { s with turns := s.turns.drop 1, answers := rest })

/-! ### Invariants and whole-machine rules -/

/-- The invariant holds right after reset. -/
def Obligations.InvariantAtReset : Prop := Inv State.reset

/-- Every step keeps the invariant. -/
def Obligations.StepKeepsInvariant : Prop :=
  ∀ s t : State, Inv s → step s = .next t → Inv t

/-- Every instruction keeps the invariant, from every state that has it. -/
def Obligations.InstructionKeepsInvariant : Prop :=
  ∀ (i : Instr) (s t : State), Inv s → exec i s = .next t → Inv t

/-- No step faults and none is refused in a state with the invariant: there is no stuck case. -/
def Obligations.StepAlwaysGoesOn : Prop :=
  ∀ s : State, Inv s → ∃ t, step s = .next t

/-- Between operations the line speed is the one R151 gives the session state, after every step. -/
def Obligations.SpeedFollowsTheSession : Prop :=
  ∀ s t : State, Inv s → step s = .next t → t.status.busy = false →
    (t.ss = .idle ∨ t.ss = .identified ∨ t.ss = .closed → t.baud = .default) ∧
    (t.ss = .fastMode → t.baud = .fast) ∧ t.ss ≠ .awake

/-- Every write of `SS`, and there are no others: the table of R149. -/
def Obligations.SessionChangesByTheTable : Prop :=
  ∀ s t : State, Inv s → step s = .next t → s.ss ≠ t.ss →
    (blockNext s = true ∧ s.status.busy = true ∧
      ((s.seq = ⟨some .start, 1⟩ ∧ s.ss = .idle ∧ t.ss = .awake) ∨
       (s.seq = ⟨some .start, 6⟩ ∧ s.ss = .awake ∧ t.ss = .identified) ∨
       (s.seq = ⟨some .upgrade, 5⟩ ∧ s.ss = .identified ∧ t.ss = .fastMode) ∨
       (s.seq = ⟨some .endFast, 5⟩ ∧ s.ss = .fastMode ∧ t.ss = .identified) ∨
       (s.seq = ⟨some .close, 1⟩ ∧ s.ss = .identified ∧ t.ss = .closed) ∨
       (s.ss ∈ [SessionState.idle, .awake, .identified, .fastMode] ∧ t.ss = .desync ∧ t.status.err = true))) ∨
    (resetNext s = true ∧ t.ss = .idle)

/-- `Closed` and `Desync` accept nothing: until reset no operation starts, nothing is sent or read, and
`SS` stays. -/
def Obligations.EndedSessionsStaySilent : Prop :=
  ∀ s t : State, Inv s → (s.ss = .closed ∨ s.ss = .desync) → resetNext s = false → step s = .next t →
    t.ss = s.ss ∧ t.trace = s.trace ∧ t.baud = s.baud ∧ t.status.busy = false ∧ t.seq = ⟨none, 0⟩

/-- The errors of a step and of an `OP` write are those of R192's table. The last clause takes the low
8 bits of the value (log 11). -/
def Obligations.ErrorsAreThoseOfTheTable : Prop :=
  (∀ (s t : State) (op : HostOp), Inv s → blockNext s = true → s.status.busy = true → s.seq.cur = some op →
    step s = .next t → t.status.err = true →
    (op, t.errstep.toNat, t.errcode.toNat, t.errsub.toNat) ∈ errorTable ∧ t.errstep.toNat = s.seq.step ∧
    (t.errcode = 2 → t.errsub = 1 → op = .readMem ∧ s.aLen = 0)) ∧
  (∀ (s t : State) (op : HostOp), s.status.busy = false → exec (opInstr op) s = .next t → t.status.err = true →
    (op, t.errstep.toNat, t.errcode.toNat, t.errsub.toNat) ∈ errorTable ∧ t.errstep = 0) ∧
  (∀ (s : State) (v : Half) (rest : List Turn), s.status.busy = false →
    s.turns = .host (.write .op v) :: rest → operationOf (v.toNat % 256) = none →
    step s = .next (refused 9 { s with turns := rest }))

/-- No operation writes an operand register or `PBUF`; only the host and reset do (R22, R24). -/
def Obligations.OperandsChangeOnlyByTheHost : Prop :=
  ∀ s t : State, step s = .next t →
    (blockNext s = true ∨ s.status.busy = true ∧ resetNext s = false) →
    t.aSpace = s.aSpace ∧ t.aLen = s.aLen ∧ t.aAddr = s.aAddr ∧ t.vlen = s.vlen ∧ t.pbuf = s.pbuf

/-- A result register changes only in the last step of its own operation, which ends without error
(R34). -/
def Obligations.ResultRegistersChangeOnlyOnSuccess : Prop :=
  ∀ s t : State, Inv s → step s = .next t → resetNext s = false →
    (¬(t.ringStart = s.ringStart ∧ t.ringEnd = s.ringEnd) →
      s.seq = ⟨some .getRingAddrs, 3⟩ ∧ t.status = ⟨false, true, false⟩) ∧
    (¬(t.mhCurrent = s.mhCurrent ∧ t.mhStart = s.mhStart ∧ t.mhRollStart = s.mhRollStart) →
      s.seq = ⟨some .getMhAddrs, 3⟩ ∧ t.status = ⟨false, true, false⟩) ∧
    (¬(t.mhSetting = s.mhSetting ∧ t.mhBpf = s.mhBpf) →
      s.seq = ⟨some .getMhSetting, 3⟩ ∧ t.status = ⟨false, true, false⟩) ∧
    (¬(t.rollId = s.rollId ∧ t.bytesToRead = s.bytesToRead) →
      s.seq = ⟨some .readMemoInfo, 3⟩ ∧ t.status = ⟨false, true, false⟩)

/-- A step records at most one event, at the end of the trace; only a busy block's own step records
one. -/
def Obligations.AtMostOneEventAStep : Prop :=
  ∀ s t : State, step s = .next t →
    t.trace = s.trace ∨
    (blockNext s = true ∧ s.status.busy = true ∧ ∃ e, t.trace = s.trace ++ [e])

/-- Every operation ends: with the host waiting, at most 6 steps lead to a state that is not busy. -/
def Obligations.EveryOperationEnds : Prop :=
  ∀ s : State, Inv s → hostQuiet s = true → ∃ k t, k ≤ 6 ∧ runs k s t ∧ t.status.busy = false

/-- A host write to an operand register or `PBUF`: taken when idle, ignored while busy; a write to any
other register but `OP` has no effect (the model's choice, log 11); nothing else changes. -/
def Obligations.HostWritesOperands : Prop :=
  ∀ (s : State) (r : HostReg) (v : Half) (rest : List Turn), s.turns = .host (.write r v) :: rest → r ≠ .op →
    (s.status.busy = true → step s = .next { s with turns := rest }) ∧
    (s.status.busy = false →
      (r = .aSpace → step s = .next { s with turns := rest, aSpace := v.setWidth 8 }) ∧
      (r = .aLen → step s = .next { s with turns := rest, aLen := v.setWidth 8 }) ∧
      (r = .aAddr → step s = .next { s with turns := rest, aAddr := v }) ∧
      (r = .vlen → step s = .next { s with turns := rest, vlen := v }) ∧
      (∀ i, r = .pbuf i →
        ∃ t, step s = .next t ∧ t = { s with turns := rest, pbuf := t.pbuf } ∧
          ∀ j : Fin 255, t.pbuf[j] = if j = i then v.setWidth 8 else s.pbuf[j]) ∧
      (r ≠ .aSpace → r ≠ .aLen → r ≠ .aAddr → r ≠ .vlen → (∀ i, r ≠ .pbuf i) →
        step s = .next { s with turns := rest }))

/-- A host read is always allowed and changes no register; while busy, the value of `RBUF`, `RLEN` or a
result register is a free value (the statement says nothing of it); any other is what it holds. -/
def Obligations.HostReads : Prop :=
  ∀ (s : State) (r : HostReg) (rest : List Turn), s.turns = .host (.read r) :: rest →
    ∃ t v, step s = .next t ∧
      t = { s with turns := rest, readLog := s.readLog ++ [⟨r, v⟩], draws := t.draws } ∧
      v.toNat < 2 ^ hostRegWidth r ∧
      (s.status.busy = false ∨ unspecifiedWhileBusy r = false → v.toNat = holds s r)

/-- Reset, at any time: the registers the spec gives a value take it, and nothing is recorded, sent or
taken from outside (R220). -/
def Obligations.ResetTakesEffectAtAnyTime : Prop :=
  ∀ (s : State) (rest : List Turn), s.turns = .host .reset :: rest →
    ∃ t, step s = .next t ∧
      t.ss = .idle ∧ t.baud = .default ∧ t.status = ⟨false, false, false⟩ ∧
      t.errcode = 0 ∧ t.errsub = 0 ∧ t.errstep = 0 ∧
      t.aSpace = 0 ∧ t.aLen = 0 ∧ t.aAddr = 0 ∧ t.vlen = 0 ∧ t.rlen = 0 ∧ t.seq = ⟨none, 0⟩ ∧
      t.trace = s.trace ∧ t.turns = rest ∧ t.answers = s.answers ∧ t.readLog = s.readLog

/-- The register values the spec gives the machine right after reset (R37). -/
def Obligations.ResetValues : Prop :=
  State.reset.ss = .idle ∧ State.reset.baud = .default ∧ State.reset.status = ⟨false, false, false⟩ ∧
  State.reset.errcode = 0 ∧ State.reset.errsub = 0 ∧ State.reset.errstep = 0 ∧
  State.reset.aSpace = 0 ∧ State.reset.aLen = 0 ∧ State.reset.aAddr = 0 ∧ State.reset.vlen = 0 ∧
  State.reset.rlen = 0 ∧ State.reset.seq = ⟨none, 0⟩

/-- `T_read(n)` gives exactly `n` bytes, the first that arrived, or an error when fewer arrive, at every
step that reads; a validator compares all of them, after the read's own error (R61, R130). A short answer
stands for a timeout and a longer one for bytes that wait (log 2). -/
def Obligations.ReadGivesExactlyTheBytesAsked : Prop :=
  ∀ (s : State) (x : Action) (n : Nat) (a : Answer) (rest : List Answer), blockNext s = true →
    running s = some x → bytesAsked x = some n → s.answers = a :: rest →
    ∃ t r, step s = .next t ∧ t.answers = rest ∧ t.trace = s.trace ++ [.read n r] ∧
      (∀ b, r = some b → b.length = n) ∧
      (∀ bs, a = .ok bs → n ≤ bs.length → r = some (bs.take n)) ∧
      (a = .err ∨ (∃ bs, a = .ok bs ∧ bs.length < n) → r = none ∧ t.ss = .desync ∧ t.errcode = 1 ∧ t.errsub = 0) ∧
      (∀ f b, x = .expect f → r = some b →
        (b = responseBytes f → t.ss = s.ss ∧ t.errcode = s.errcode ∧ t.errsub = s.errsub) ∧
        (b ≠ responseBytes f → t.ss = .desync ∧ t.errcode = 3 ∧ t.errsub = validationCode f))

/-- `BAUD` changes only at step 4 of UPGRADE and of END_FAST and by reset (R32). -/
def Obligations.SpeedChangesOnlyAtItsSteps : Prop :=
  ∀ s t : State, step s = .next t → t.baud ≠ s.baud →
    (blockNext s = true ∧ s.status.busy = true ∧
      (s.seq = ⟨some .upgrade, 4⟩ ∨ s.seq = ⟨some .endFast, 4⟩)) ∨
    (resetNext s = true ∧ t.baud = .default)

/-- `RBUF` and `RLEN` change only where a packet is read, by an abort, and by reset (R25). -/
def Obligations.ReceivedPayloadChangesOnlyByPackets : Prop :=
  ∀ s t : State, step s = .next t → ¬(t.rbuf = s.rbuf ∧ t.rlen = s.rlen) →
    (blockNext s = true ∧ ((∃ n, running s = some (.packet n)) ∨ (t.ss = .desync ∧ t.status.err = true))) ∨
    resetNext s = true

/-- While no operation runs, the flags and the error registers keep their values until the next `OP`
write or reset (R199). -/
def Obligations.ErrorsStayUntilTheNextOpWrite : Prop :=
  ∀ s t : State, s.status.busy = false → step s = .next t → resetNext s = false →
    (∀ v rest, s.turns ≠ .host (.write .op v) :: rest) →
    t.status = s.status ∧ t.errcode = s.errcode ∧ t.errsub = s.errsub ∧ t.errstep = s.errstep ∧
    t.ss = s.ss ∧ t.seq = s.seq

/-- The subcommand `focus`: START, FOCUS, CLOSE with a device that answers well ends closed, with the
events of the three operations in order (R96). -/
def Obligations.FocusSubcommandSession : Prop :=
  ∀ (s : State) (d1 d3 d4 d5 : List Byte) (rest : List Answer), s.status.busy = false → s.ss = .idle →
    s.answers = .ok d1 :: .ok d3 :: .ok d4 :: .ok Config.UNIT_ID_RESP :: .ok d5 :: .ok [0x06, 0x00] :: rest →
    runSubcommand .focus s = .next
      { completed { s with turns := [] } 0 rest
          [.write [0x00] true, .delay 200, .clear true, .write [0x53, 0x31, 0x30, 0x30, 0x30, 0x05] true,
           .read 16 (some Config.UNIT_ID_RESP),
           .write [0x01, 0x20, 0x86, 0, 0, 0, 0, 0, 0x03] true, .read 2 (some [0x06, 0x00])]
        with ss := .closed }

/-- `ReadMemoHolderInfo` is a fixed sequence that is not empty and is no command of the `0x01 0x20` family,
whatever their operands: with their first two bytes, its third is none of their op codes (R122; that the
op code is the third byte is log 10's reading). -/
def Obligations.MemoInfoCommandIsDistinct : Prop :=
  ∃ bs, encode .readMemoHolderInfo = .ok bs ∧ bs ≠ [] ∧
    (bs.take 2 = [0x01, 0x20] → bs[2]? ∉ [some (0x80 : Byte), some 0x81, some 0x85, some 0x86]) ∧
    encode .cmdFocus ≠ .ok bs ∧ encode .cmdShoot ≠ .ok bs ∧
    (∀ sp a n, encode (.readMemory sp a n) ≠ .ok bs) ∧ ∀ a v, encode (.writeToMemory a v) ≠ .ok bs
end

