-- ==== Sys2Proof/Laws/Codec.lean ====
section
/-! SUPPORT. Small lemmas about the packet codec, the byte helpers and the buffers. -/

namespace Sys2Proof.Machine

theorem checksumAcc_foldl (p : List Byte) (acc : Nat) :
    p.foldl chkStep (acc % 255) = (acc + (p.map BitVec.toNat).sum) % 255 := by
  induction p generalizing acc with
  | nil => simp
  | cons b p ih =>
    have h : chkStep (acc % 255) b = (acc + b.toNat) % 255 := by
      simp [chkStep, Config.CHK_MOD, Nat.add_mod]
    simp only [List.foldl_cons, h, ih, List.map_cons, List.sum_cons, Nat.add_assoc]

/-- The accumulator never leaves 0..254. -/
theorem checksumAcc_lt (p : List Byte) : checksumAcc p < 255 := by
  have h := checksumAcc_foldl p 0
  simp only [Nat.zero_mod] at h
  simp only [checksumAcc, h]
  exact Nat.mod_lt _ (by decide)

@[simp] theorem serialize_length (p : List Byte) : (serialize p).length = p.length + 3 := by
  simp [serialize]

/-- The slice from 1 drops the first byte and stops where told. -/
theorem slice_one (f : List Byte) (j : Nat) : slice f 1 j = (f.drop 1).take (j - 1) := by
  simp [slice, List.drop_take]

@[simp] theorem Buf.toList_ofFn (f : Nat → Byte) : (Buf.ofFn f).toList = (List.range 255).map f := by
  simp [Buf.ofFn, Vector.toList]

/-- The entries a stored payload fills read back as the payload. -/
theorem storePayload_prefix (p : List Byte) (g : Nat → Byte) (h : p.length ≤ 255) :
    (Buf.ofFn fun i => p.getD i (g i)).toList.take p.length = p := by
  apply List.ext_getElem
  · simp [h]
  · intro i h1 h2
    simp [List.getD, h2]

/-- `PBUF[0..n)` has `n` bytes for every `n` the buffer holds. -/
theorem pbufPrefix_length (s : State) (n : Nat) : (pbufPrefix s n).length = min n 255 := by
  simp [pbufPrefix]

/-- `high(a)` by arithmetic (R12). -/
theorem highByte_eq (a : Half) : highByte a = BitVec.ofNat 8 (a.toNat / 256) := by
  apply BitVec.eq_of_toNat_eq
  simp [highByte, BitVec.extractLsb', Nat.shiftRight_eq_div_pow]

/-- `low(a)` by arithmetic (R12). -/
theorem lowByte_eq (a : Half) : lowByte a = BitVec.ofNat 8 (a.toNat % 256) := by
  apply BitVec.eq_of_toNat_eq
  simp [lowByte, BitVec.extractLsb']

/-- `low(v)` of a host's value is its low 8 bits. -/
theorem lowByte_setWidth (v : Half) : lowByte v = v.setWidth 8 := by
  apply BitVec.eq_of_toNat_eq
  simp [lowByte, BitVec.extractLsb']

/-- An address is its two bytes. -/
theorem joinBytes_high_low (a : Half) : joinBytes (highByte a) (lowByte a) = a := by
  unfold joinBytes highByte lowByte
  ext i hi
  simp only [BitVec.getElem_append, BitVec.getElem_extractLsb', Nat.zero_add]
  split
  · rw [BitVec.getLsbD_eq_getElem]
  · rw [BitVec.getLsbD_eq_getElem (by omega)]
    congr 1
    omega

theorem joinBytes_getLsbD (h l : Byte) (i : Nat) :
    (joinBytes h l).getLsbD i = if i < 8 then l.getLsbD i else h.getLsbD (i - 8) := by
  have e : (joinBytes h l).getLsbD i = (h ++ l : BitVec (8 + 8)).getLsbD i := rfl
  rw [e, BitVec.getLsbD_append]

@[simp] theorem highByte_joinBytes (h l : Byte) : highByte (joinBytes h l) = h := by
  unfold highByte
  ext i hi
  simp [joinBytes_getLsbD, hi]

@[simp] theorem lowByte_joinBytes (h l : Byte) : lowByte (joinBytes h l) = l := by
  unfold lowByte
  ext i hi
  simp [joinBytes_getLsbD, hi]

/-- What the fixed formats decode is one of the three short commands or has a known op code as its third
byte (R79, R80, R87). -/
theorem decodeFixedCommand_opCode {bs : List Byte} {i : Instr} (h : decodeFixedCommand bs = .ok i) :
    bs ∈ [Config.WAKEUP_CMD, Config.INQUIRY_CMD, Config.EOT_MARK] ∨
      bs.take 2 = [Config.SOH, Config.CMD_CLASS] ∧ ∃ b ∈ Config.familyOpCodes, bs[2]? = some b := by
  unfold decodeFixedCommand at h
  split_ifs at h with h1 h2 h3
  · exact .inl (by simp [h1])
  · exact .inl (by simp [h2])
  · exact .inl (by simp [h3])
  · split at h
    · rename_i soh cls opc space hi lo zero len tail
      split_ifs at h with hc
      obtain ⟨rfl, rfl⟩ := hc
      refine .inr ⟨rfl, opc, ?_, rfl⟩
      by_contra hn
      simp only [Config.familyOpCodes, List.mem_cons, List.not_mem_nil, or_false, not_or] at hn
      simp [decodeFamily, hn] at h
    · cases h

/-- Of the fixed formats only the three short commands could be `MEMO_INFO_CMD` (R122). -/
theorem decodeFixedCommand_memoInfo {i : Instr} (h : decodeFixedCommand Config.memoInfoCmd.bytes = .ok i) :
    Config.memoInfoCmd.bytes ∈ [Config.WAKEUP_CMD, Config.INQUIRY_CMD, Config.EOT_MARK] := by
  rcases decodeFixedCommand_opCode h with h | ⟨h2, b, hb, h3⟩
  · exact h
  · exact absurd hb (Config.memoInfo.distinctOpCode b ((if_pos h2).trans h3))

end Sys2Proof.Machine
end

