-- ==== Sys2Proof/Laws/State.lean ====
section
/-! SUPPORT. One lemma for each field and each update of the state, true by unfolding, so that no later
proof unfolds a record update. -/

namespace Sys2Proof.Machine

/-! ### `recordEvent` -/

@[simp] theorem recordEvent_aSpace (e : Event) (s : State) : (recordEvent e s).aSpace = s.aSpace := rfl
@[simp] theorem recordEvent_aLen (e : Event) (s : State) : (recordEvent e s).aLen = s.aLen := rfl
@[simp] theorem recordEvent_aAddr (e : Event) (s : State) : (recordEvent e s).aAddr = s.aAddr := rfl
@[simp] theorem recordEvent_vlen (e : Event) (s : State) : (recordEvent e s).vlen = s.vlen := rfl
@[simp] theorem recordEvent_pbuf (e : Event) (s : State) : (recordEvent e s).pbuf = s.pbuf := rfl
@[simp] theorem recordEvent_rbuf (e : Event) (s : State) : (recordEvent e s).rbuf = s.rbuf := rfl
@[simp] theorem recordEvent_rlen (e : Event) (s : State) : (recordEvent e s).rlen = s.rlen := rfl
@[simp] theorem recordEvent_status (e : Event) (s : State) : (recordEvent e s).status = s.status := rfl
@[simp] theorem recordEvent_errcode (e : Event) (s : State) : (recordEvent e s).errcode = s.errcode := rfl
@[simp] theorem recordEvent_errsub (e : Event) (s : State) : (recordEvent e s).errsub = s.errsub := rfl
@[simp] theorem recordEvent_errstep (e : Event) (s : State) : (recordEvent e s).errstep = s.errstep := rfl
@[simp] theorem recordEvent_ss (e : Event) (s : State) : (recordEvent e s).ss = s.ss := rfl
@[simp] theorem recordEvent_baud (e : Event) (s : State) : (recordEvent e s).baud = s.baud := rfl
@[simp] theorem recordEvent_seq (e : Event) (s : State) : (recordEvent e s).seq = s.seq := rfl
@[simp] theorem recordEvent_ringStart (e : Event) (s : State) : (recordEvent e s).ringStart = s.ringStart := rfl
@[simp] theorem recordEvent_ringEnd (e : Event) (s : State) : (recordEvent e s).ringEnd = s.ringEnd := rfl
@[simp] theorem recordEvent_mhCurrent (e : Event) (s : State) : (recordEvent e s).mhCurrent = s.mhCurrent := rfl
@[simp] theorem recordEvent_mhStart (e : Event) (s : State) : (recordEvent e s).mhStart = s.mhStart := rfl
@[simp] theorem recordEvent_mhRollStart (e : Event) (s : State) : (recordEvent e s).mhRollStart = s.mhRollStart := rfl
@[simp] theorem recordEvent_mhSetting (e : Event) (s : State) : (recordEvent e s).mhSetting = s.mhSetting := rfl
@[simp] theorem recordEvent_mhBpf (e : Event) (s : State) : (recordEvent e s).mhBpf = s.mhBpf := rfl
@[simp] theorem recordEvent_rollId (e : Event) (s : State) : (recordEvent e s).rollId = s.rollId := rfl
@[simp] theorem recordEvent_bytesToRead (e : Event) (s : State) : (recordEvent e s).bytesToRead = s.bytesToRead := rfl
@[simp] theorem recordEvent_turns (e : Event) (s : State) : (recordEvent e s).turns = s.turns := rfl
@[simp] theorem recordEvent_answers (e : Event) (s : State) : (recordEvent e s).answers = s.answers := rfl
@[simp] theorem recordEvent_trace (e : Event) (s : State) : (recordEvent e s).trace = s.trace ++ [e] := rfl
@[simp] theorem recordEvent_readLog (e : Event) (s : State) : (recordEvent e s).readLog = s.readLog := rfl
@[simp] theorem recordEvent_draws (e : Event) (s : State) : (recordEvent e s).draws = s.draws := rfl

/-! ### `delay` -/

@[simp] theorem delay_aSpace (s : State) : (delay s).aSpace = s.aSpace := rfl
@[simp] theorem delay_aLen (s : State) : (delay s).aLen = s.aLen := rfl
@[simp] theorem delay_aAddr (s : State) : (delay s).aAddr = s.aAddr := rfl
@[simp] theorem delay_vlen (s : State) : (delay s).vlen = s.vlen := rfl
@[simp] theorem delay_pbuf (s : State) : (delay s).pbuf = s.pbuf := rfl
@[simp] theorem delay_rbuf (s : State) : (delay s).rbuf = s.rbuf := rfl
@[simp] theorem delay_rlen (s : State) : (delay s).rlen = s.rlen := rfl
@[simp] theorem delay_status (s : State) : (delay s).status = s.status := rfl
@[simp] theorem delay_errcode (s : State) : (delay s).errcode = s.errcode := rfl
@[simp] theorem delay_errsub (s : State) : (delay s).errsub = s.errsub := rfl
@[simp] theorem delay_errstep (s : State) : (delay s).errstep = s.errstep := rfl
@[simp] theorem delay_ss (s : State) : (delay s).ss = s.ss := rfl
@[simp] theorem delay_baud (s : State) : (delay s).baud = s.baud := rfl
@[simp] theorem delay_seq (s : State) : (delay s).seq = s.seq := rfl
@[simp] theorem delay_ringStart (s : State) : (delay s).ringStart = s.ringStart := rfl
@[simp] theorem delay_ringEnd (s : State) : (delay s).ringEnd = s.ringEnd := rfl
@[simp] theorem delay_mhCurrent (s : State) : (delay s).mhCurrent = s.mhCurrent := rfl
@[simp] theorem delay_mhStart (s : State) : (delay s).mhStart = s.mhStart := rfl
@[simp] theorem delay_mhRollStart (s : State) : (delay s).mhRollStart = s.mhRollStart := rfl
@[simp] theorem delay_mhSetting (s : State) : (delay s).mhSetting = s.mhSetting := rfl
@[simp] theorem delay_mhBpf (s : State) : (delay s).mhBpf = s.mhBpf := rfl
@[simp] theorem delay_rollId (s : State) : (delay s).rollId = s.rollId := rfl
@[simp] theorem delay_bytesToRead (s : State) : (delay s).bytesToRead = s.bytesToRead := rfl
@[simp] theorem delay_turns (s : State) : (delay s).turns = s.turns := rfl
@[simp] theorem delay_answers (s : State) : (delay s).answers = s.answers := rfl
@[simp] theorem delay_trace (s : State) : (delay s).trace = s.trace ++ [.delay Config.SETTLE_MS] := rfl
@[simp] theorem delay_readLog (s : State) : (delay s).readLog = s.readLog := rfl
@[simp] theorem delay_draws (s : State) : (delay s).draws = s.draws := rfl

/-! ### `clearErrors` -/

@[simp] theorem clearErrors_aSpace (s : State) : (clearErrors s).aSpace = s.aSpace := rfl
@[simp] theorem clearErrors_aLen (s : State) : (clearErrors s).aLen = s.aLen := rfl
@[simp] theorem clearErrors_aAddr (s : State) : (clearErrors s).aAddr = s.aAddr := rfl
@[simp] theorem clearErrors_vlen (s : State) : (clearErrors s).vlen = s.vlen := rfl
@[simp] theorem clearErrors_pbuf (s : State) : (clearErrors s).pbuf = s.pbuf := rfl
@[simp] theorem clearErrors_rbuf (s : State) : (clearErrors s).rbuf = s.rbuf := rfl
@[simp] theorem clearErrors_rlen (s : State) : (clearErrors s).rlen = s.rlen := rfl
@[simp] theorem clearErrors_status (s : State) : (clearErrors s).status = { s.status with done := false, err := false } := rfl
@[simp] theorem clearErrors_errcode (s : State) : (clearErrors s).errcode = 0 := rfl
@[simp] theorem clearErrors_errsub (s : State) : (clearErrors s).errsub = 0 := rfl
@[simp] theorem clearErrors_errstep (s : State) : (clearErrors s).errstep = 0 := rfl
@[simp] theorem clearErrors_ss (s : State) : (clearErrors s).ss = s.ss := rfl
@[simp] theorem clearErrors_baud (s : State) : (clearErrors s).baud = s.baud := rfl
@[simp] theorem clearErrors_seq (s : State) : (clearErrors s).seq = s.seq := rfl
@[simp] theorem clearErrors_ringStart (s : State) : (clearErrors s).ringStart = s.ringStart := rfl
@[simp] theorem clearErrors_ringEnd (s : State) : (clearErrors s).ringEnd = s.ringEnd := rfl
@[simp] theorem clearErrors_mhCurrent (s : State) : (clearErrors s).mhCurrent = s.mhCurrent := rfl
@[simp] theorem clearErrors_mhStart (s : State) : (clearErrors s).mhStart = s.mhStart := rfl
@[simp] theorem clearErrors_mhRollStart (s : State) : (clearErrors s).mhRollStart = s.mhRollStart := rfl
@[simp] theorem clearErrors_mhSetting (s : State) : (clearErrors s).mhSetting = s.mhSetting := rfl
@[simp] theorem clearErrors_mhBpf (s : State) : (clearErrors s).mhBpf = s.mhBpf := rfl
@[simp] theorem clearErrors_rollId (s : State) : (clearErrors s).rollId = s.rollId := rfl
@[simp] theorem clearErrors_bytesToRead (s : State) : (clearErrors s).bytesToRead = s.bytesToRead := rfl
@[simp] theorem clearErrors_turns (s : State) : (clearErrors s).turns = s.turns := rfl
@[simp] theorem clearErrors_answers (s : State) : (clearErrors s).answers = s.answers := rfl
@[simp] theorem clearErrors_trace (s : State) : (clearErrors s).trace = s.trace := rfl
@[simp] theorem clearErrors_readLog (s : State) : (clearErrors s).readLog = s.readLog := rfl
@[simp] theorem clearErrors_draws (s : State) : (clearErrors s).draws = s.draws := rfl

/-! ### `refuse` -/

@[simp] theorem refuse_aSpace (k : ErrKind) (s : State) : (refuse k s).aSpace = s.aSpace := rfl
@[simp] theorem refuse_aLen (k : ErrKind) (s : State) : (refuse k s).aLen = s.aLen := rfl
@[simp] theorem refuse_aAddr (k : ErrKind) (s : State) : (refuse k s).aAddr = s.aAddr := rfl
@[simp] theorem refuse_vlen (k : ErrKind) (s : State) : (refuse k s).vlen = s.vlen := rfl
@[simp] theorem refuse_pbuf (k : ErrKind) (s : State) : (refuse k s).pbuf = s.pbuf := rfl
@[simp] theorem refuse_rbuf (k : ErrKind) (s : State) : (refuse k s).rbuf = s.rbuf := rfl
@[simp] theorem refuse_rlen (k : ErrKind) (s : State) : (refuse k s).rlen = s.rlen := rfl
@[simp] theorem refuse_status (k : ErrKind) (s : State) : (refuse k s).status = { s.status with done := true, err := true } := rfl
@[simp] theorem refuse_errcode (k : ErrKind) (s : State) : (refuse k s).errcode = errorCode k := rfl
@[simp] theorem refuse_errsub (k : ErrKind) (s : State) : (refuse k s).errsub = 0 := rfl
@[simp] theorem refuse_errstep (k : ErrKind) (s : State) : (refuse k s).errstep = 0 := rfl
@[simp] theorem refuse_ss (k : ErrKind) (s : State) : (refuse k s).ss = s.ss := rfl
@[simp] theorem refuse_baud (k : ErrKind) (s : State) : (refuse k s).baud = s.baud := rfl
@[simp] theorem refuse_seq (k : ErrKind) (s : State) : (refuse k s).seq = s.seq := rfl
@[simp] theorem refuse_ringStart (k : ErrKind) (s : State) : (refuse k s).ringStart = s.ringStart := rfl
@[simp] theorem refuse_ringEnd (k : ErrKind) (s : State) : (refuse k s).ringEnd = s.ringEnd := rfl
@[simp] theorem refuse_mhCurrent (k : ErrKind) (s : State) : (refuse k s).mhCurrent = s.mhCurrent := rfl
@[simp] theorem refuse_mhStart (k : ErrKind) (s : State) : (refuse k s).mhStart = s.mhStart := rfl
@[simp] theorem refuse_mhRollStart (k : ErrKind) (s : State) : (refuse k s).mhRollStart = s.mhRollStart := rfl
@[simp] theorem refuse_mhSetting (k : ErrKind) (s : State) : (refuse k s).mhSetting = s.mhSetting := rfl
@[simp] theorem refuse_mhBpf (k : ErrKind) (s : State) : (refuse k s).mhBpf = s.mhBpf := rfl
@[simp] theorem refuse_rollId (k : ErrKind) (s : State) : (refuse k s).rollId = s.rollId := rfl
@[simp] theorem refuse_bytesToRead (k : ErrKind) (s : State) : (refuse k s).bytesToRead = s.bytesToRead := rfl
@[simp] theorem refuse_turns (k : ErrKind) (s : State) : (refuse k s).turns = s.turns := rfl
@[simp] theorem refuse_answers (k : ErrKind) (s : State) : (refuse k s).answers = s.answers := rfl
@[simp] theorem refuse_trace (k : ErrKind) (s : State) : (refuse k s).trace = s.trace := rfl
@[simp] theorem refuse_readLog (k : ErrKind) (s : State) : (refuse k s).readLog = s.readLog := rfl
@[simp] theorem refuse_draws (k : ErrKind) (s : State) : (refuse k s).draws = s.draws := rfl

/-! ### `complete` -/

@[simp] theorem complete_aSpace (s : State) : (complete s).aSpace = s.aSpace := rfl
@[simp] theorem complete_aLen (s : State) : (complete s).aLen = s.aLen := rfl
@[simp] theorem complete_aAddr (s : State) : (complete s).aAddr = s.aAddr := rfl
@[simp] theorem complete_vlen (s : State) : (complete s).vlen = s.vlen := rfl
@[simp] theorem complete_pbuf (s : State) : (complete s).pbuf = s.pbuf := rfl
@[simp] theorem complete_rbuf (s : State) : (complete s).rbuf = s.rbuf := rfl
@[simp] theorem complete_rlen (s : State) : (complete s).rlen = s.rlen := rfl
@[simp] theorem complete_status (s : State) : (complete s).status = { s.status with busy := false, done := true } := rfl
@[simp] theorem complete_errcode (s : State) : (complete s).errcode = s.errcode := rfl
@[simp] theorem complete_errsub (s : State) : (complete s).errsub = s.errsub := rfl
@[simp] theorem complete_errstep (s : State) : (complete s).errstep = s.errstep := rfl
@[simp] theorem complete_ss (s : State) : (complete s).ss = s.ss := rfl
@[simp] theorem complete_baud (s : State) : (complete s).baud = s.baud := rfl
@[simp] theorem complete_seq (s : State) : (complete s).seq = ⟨none, 0⟩ := rfl
@[simp] theorem complete_ringStart (s : State) : (complete s).ringStart = s.ringStart := rfl
@[simp] theorem complete_ringEnd (s : State) : (complete s).ringEnd = s.ringEnd := rfl
@[simp] theorem complete_mhCurrent (s : State) : (complete s).mhCurrent = s.mhCurrent := rfl
@[simp] theorem complete_mhStart (s : State) : (complete s).mhStart = s.mhStart := rfl
@[simp] theorem complete_mhRollStart (s : State) : (complete s).mhRollStart = s.mhRollStart := rfl
@[simp] theorem complete_mhSetting (s : State) : (complete s).mhSetting = s.mhSetting := rfl
@[simp] theorem complete_mhBpf (s : State) : (complete s).mhBpf = s.mhBpf := rfl
@[simp] theorem complete_rollId (s : State) : (complete s).rollId = s.rollId := rfl
@[simp] theorem complete_bytesToRead (s : State) : (complete s).bytesToRead = s.bytesToRead := rfl
@[simp] theorem complete_turns (s : State) : (complete s).turns = s.turns := rfl
@[simp] theorem complete_answers (s : State) : (complete s).answers = s.answers := rfl
@[simp] theorem complete_trace (s : State) : (complete s).trace = s.trace := rfl
@[simp] theorem complete_readLog (s : State) : (complete s).readLog = s.readLog := rfl
@[simp] theorem complete_draws (s : State) : (complete s).draws = s.draws := rfl

/-! ### `abort` -/

@[simp] theorem abort_aSpace (k : ErrKind) (s : State) : (abort k s).aSpace = s.aSpace := rfl
@[simp] theorem abort_aLen (k : ErrKind) (s : State) : (abort k s).aLen = s.aLen := rfl
@[simp] theorem abort_aAddr (k : ErrKind) (s : State) : (abort k s).aAddr = s.aAddr := rfl
@[simp] theorem abort_vlen (k : ErrKind) (s : State) : (abort k s).vlen = s.vlen := rfl
@[simp] theorem abort_pbuf (k : ErrKind) (s : State) : (abort k s).pbuf = s.pbuf := rfl
@[simp] theorem abort_rbuf (k : ErrKind) (s : State) : (abort k s).rbuf = freeBuf s.draws := rfl
@[simp] theorem abort_rlen (k : ErrKind) (s : State) : (abort k s).rlen = Config.freeByte (s.draws + 255) := rfl
@[simp] theorem abort_status (k : ErrKind) (s : State) : (abort k s).status = ⟨false, true, true⟩ := rfl
@[simp] theorem abort_errcode (k : ErrKind) (s : State) : (abort k s).errcode = errorCode k := rfl
@[simp] theorem abort_errsub (k : ErrKind) (s : State) : (abort k s).errsub = errorSub k := rfl
@[simp] theorem abort_errstep (k : ErrKind) (s : State) : (abort k s).errstep = BitVec.ofNat 8 s.seq.step := rfl
@[simp] theorem abort_ss (k : ErrKind) (s : State) : (abort k s).ss = .desync := rfl
@[simp] theorem abort_baud (k : ErrKind) (s : State) : (abort k s).baud = s.baud := rfl
@[simp] theorem abort_seq (k : ErrKind) (s : State) : (abort k s).seq = ⟨none, 0⟩ := rfl
@[simp] theorem abort_ringStart (k : ErrKind) (s : State) : (abort k s).ringStart = s.ringStart := rfl
@[simp] theorem abort_ringEnd (k : ErrKind) (s : State) : (abort k s).ringEnd = s.ringEnd := rfl
@[simp] theorem abort_mhCurrent (k : ErrKind) (s : State) : (abort k s).mhCurrent = s.mhCurrent := rfl
@[simp] theorem abort_mhStart (k : ErrKind) (s : State) : (abort k s).mhStart = s.mhStart := rfl
@[simp] theorem abort_mhRollStart (k : ErrKind) (s : State) : (abort k s).mhRollStart = s.mhRollStart := rfl
@[simp] theorem abort_mhSetting (k : ErrKind) (s : State) : (abort k s).mhSetting = s.mhSetting := rfl
@[simp] theorem abort_mhBpf (k : ErrKind) (s : State) : (abort k s).mhBpf = s.mhBpf := rfl
@[simp] theorem abort_rollId (k : ErrKind) (s : State) : (abort k s).rollId = s.rollId := rfl
@[simp] theorem abort_bytesToRead (k : ErrKind) (s : State) : (abort k s).bytesToRead = s.bytesToRead := rfl
@[simp] theorem abort_turns (k : ErrKind) (s : State) : (abort k s).turns = s.turns := rfl
@[simp] theorem abort_answers (k : ErrKind) (s : State) : (abort k s).answers = s.answers := rfl
@[simp] theorem abort_trace (k : ErrKind) (s : State) : (abort k s).trace = s.trace := rfl
@[simp] theorem abort_readLog (k : ErrKind) (s : State) : (abort k s).readLog = s.readLog := rfl
@[simp] theorem abort_draws (k : ErrKind) (s : State) : (abort k s).draws = s.draws + 256 := rfl

/-! ### `begin` -/

@[simp] theorem begin_aSpace (op : HostOp) (s : State) : (begin op s).aSpace = s.aSpace := rfl
@[simp] theorem begin_aLen (op : HostOp) (s : State) : (begin op s).aLen = s.aLen := rfl
@[simp] theorem begin_aAddr (op : HostOp) (s : State) : (begin op s).aAddr = s.aAddr := rfl
@[simp] theorem begin_vlen (op : HostOp) (s : State) : (begin op s).vlen = s.vlen := rfl
@[simp] theorem begin_pbuf (op : HostOp) (s : State) : (begin op s).pbuf = s.pbuf := rfl
@[simp] theorem begin_rbuf (op : HostOp) (s : State) : (begin op s).rbuf = s.rbuf := rfl
@[simp] theorem begin_rlen (op : HostOp) (s : State) : (begin op s).rlen = s.rlen := rfl
@[simp] theorem begin_status (op : HostOp) (s : State) : (begin op s).status = { s.status with busy := true } := rfl
@[simp] theorem begin_errcode (op : HostOp) (s : State) : (begin op s).errcode = s.errcode := rfl
@[simp] theorem begin_errsub (op : HostOp) (s : State) : (begin op s).errsub = s.errsub := rfl
@[simp] theorem begin_errstep (op : HostOp) (s : State) : (begin op s).errstep = s.errstep := rfl
@[simp] theorem begin_ss (op : HostOp) (s : State) : (begin op s).ss = s.ss := rfl
@[simp] theorem begin_baud (op : HostOp) (s : State) : (begin op s).baud = s.baud := rfl
@[simp] theorem begin_seq (op : HostOp) (s : State) : (begin op s).seq = ⟨some op, 1⟩ := rfl
@[simp] theorem begin_ringStart (op : HostOp) (s : State) : (begin op s).ringStart = s.ringStart := rfl
@[simp] theorem begin_ringEnd (op : HostOp) (s : State) : (begin op s).ringEnd = s.ringEnd := rfl
@[simp] theorem begin_mhCurrent (op : HostOp) (s : State) : (begin op s).mhCurrent = s.mhCurrent := rfl
@[simp] theorem begin_mhStart (op : HostOp) (s : State) : (begin op s).mhStart = s.mhStart := rfl
@[simp] theorem begin_mhRollStart (op : HostOp) (s : State) : (begin op s).mhRollStart = s.mhRollStart := rfl
@[simp] theorem begin_mhSetting (op : HostOp) (s : State) : (begin op s).mhSetting = s.mhSetting := rfl
@[simp] theorem begin_mhBpf (op : HostOp) (s : State) : (begin op s).mhBpf = s.mhBpf := rfl
@[simp] theorem begin_rollId (op : HostOp) (s : State) : (begin op s).rollId = s.rollId := rfl
@[simp] theorem begin_bytesToRead (op : HostOp) (s : State) : (begin op s).bytesToRead = s.bytesToRead := rfl
@[simp] theorem begin_turns (op : HostOp) (s : State) : (begin op s).turns = s.turns := rfl
@[simp] theorem begin_answers (op : HostOp) (s : State) : (begin op s).answers = s.answers := rfl
@[simp] theorem begin_trace (op : HostOp) (s : State) : (begin op s).trace = s.trace := rfl
@[simp] theorem begin_readLog (op : HostOp) (s : State) : (begin op s).readLog = s.readLog := rfl
@[simp] theorem begin_draws (op : HostOp) (s : State) : (begin op s).draws = s.draws := rfl

/-! ### `storePayload` -/

@[simp] theorem storePayload_aSpace (p : List Byte) (s : State) : (storePayload p s).aSpace = s.aSpace := rfl
@[simp] theorem storePayload_aLen (p : List Byte) (s : State) : (storePayload p s).aLen = s.aLen := rfl
@[simp] theorem storePayload_aAddr (p : List Byte) (s : State) : (storePayload p s).aAddr = s.aAddr := rfl
@[simp] theorem storePayload_vlen (p : List Byte) (s : State) : (storePayload p s).vlen = s.vlen := rfl
@[simp] theorem storePayload_pbuf (p : List Byte) (s : State) : (storePayload p s).pbuf = s.pbuf := rfl
@[simp] theorem storePayload_rbuf (p : List Byte) (s : State) : (storePayload p s).rbuf = Buf.ofFn fun i => p.getD i (Config.freeByte (s.draws + i)) := rfl
@[simp] theorem storePayload_rlen (p : List Byte) (s : State) : (storePayload p s).rlen = BitVec.ofNat 8 p.length := rfl
@[simp] theorem storePayload_status (p : List Byte) (s : State) : (storePayload p s).status = s.status := rfl
@[simp] theorem storePayload_errcode (p : List Byte) (s : State) : (storePayload p s).errcode = s.errcode := rfl
@[simp] theorem storePayload_errsub (p : List Byte) (s : State) : (storePayload p s).errsub = s.errsub := rfl
@[simp] theorem storePayload_errstep (p : List Byte) (s : State) : (storePayload p s).errstep = s.errstep := rfl
@[simp] theorem storePayload_ss (p : List Byte) (s : State) : (storePayload p s).ss = s.ss := rfl
@[simp] theorem storePayload_baud (p : List Byte) (s : State) : (storePayload p s).baud = s.baud := rfl
@[simp] theorem storePayload_seq (p : List Byte) (s : State) : (storePayload p s).seq = s.seq := rfl
@[simp] theorem storePayload_ringStart (p : List Byte) (s : State) : (storePayload p s).ringStart = s.ringStart := rfl
@[simp] theorem storePayload_ringEnd (p : List Byte) (s : State) : (storePayload p s).ringEnd = s.ringEnd := rfl
@[simp] theorem storePayload_mhCurrent (p : List Byte) (s : State) : (storePayload p s).mhCurrent = s.mhCurrent := rfl
@[simp] theorem storePayload_mhStart (p : List Byte) (s : State) : (storePayload p s).mhStart = s.mhStart := rfl
@[simp] theorem storePayload_mhRollStart (p : List Byte) (s : State) : (storePayload p s).mhRollStart = s.mhRollStart := rfl
@[simp] theorem storePayload_mhSetting (p : List Byte) (s : State) : (storePayload p s).mhSetting = s.mhSetting := rfl
@[simp] theorem storePayload_mhBpf (p : List Byte) (s : State) : (storePayload p s).mhBpf = s.mhBpf := rfl
@[simp] theorem storePayload_rollId (p : List Byte) (s : State) : (storePayload p s).rollId = s.rollId := rfl
@[simp] theorem storePayload_bytesToRead (p : List Byte) (s : State) : (storePayload p s).bytesToRead = s.bytesToRead := rfl
@[simp] theorem storePayload_turns (p : List Byte) (s : State) : (storePayload p s).turns = s.turns := rfl
@[simp] theorem storePayload_answers (p : List Byte) (s : State) : (storePayload p s).answers = s.answers := rfl
@[simp] theorem storePayload_trace (p : List Byte) (s : State) : (storePayload p s).trace = s.trace := rfl
@[simp] theorem storePayload_readLog (p : List Byte) (s : State) : (storePayload p s).readLog = s.readLog := rfl
@[simp] theorem storePayload_draws (p : List Byte) (s : State) : (storePayload p s).draws = s.draws + 255 := rfl

/-! ### `applyReset` -/

@[simp] theorem applyReset_aSpace (s : State) : (applyReset s).aSpace = 0 := rfl
@[simp] theorem applyReset_aLen (s : State) : (applyReset s).aLen = 0 := rfl
@[simp] theorem applyReset_aAddr (s : State) : (applyReset s).aAddr = 0 := rfl
@[simp] theorem applyReset_vlen (s : State) : (applyReset s).vlen = 0 := rfl
@[simp] theorem applyReset_pbuf (s : State) : (applyReset s).pbuf = freeBuf s.draws := rfl
@[simp] theorem applyReset_rbuf (s : State) : (applyReset s).rbuf = freeBuf (s.draws + 255) := rfl
@[simp] theorem applyReset_rlen (s : State) : (applyReset s).rlen = 0 := rfl
@[simp] theorem applyReset_status (s : State) : (applyReset s).status = ⟨false, false, false⟩ := rfl
@[simp] theorem applyReset_errcode (s : State) : (applyReset s).errcode = 0 := rfl
@[simp] theorem applyReset_errsub (s : State) : (applyReset s).errsub = 0 := rfl
@[simp] theorem applyReset_errstep (s : State) : (applyReset s).errstep = 0 := rfl
@[simp] theorem applyReset_ss (s : State) : (applyReset s).ss = .idle := rfl
@[simp] theorem applyReset_baud (s : State) : (applyReset s).baud = .default := rfl
@[simp] theorem applyReset_seq (s : State) : (applyReset s).seq = ⟨none, 0⟩ := rfl
@[simp] theorem applyReset_ringStart (s : State) : (applyReset s).ringStart = (State.resetFrom s.draws).ringStart := rfl
@[simp] theorem applyReset_ringEnd (s : State) : (applyReset s).ringEnd = (State.resetFrom s.draws).ringEnd := rfl
@[simp] theorem applyReset_mhCurrent (s : State) : (applyReset s).mhCurrent = (State.resetFrom s.draws).mhCurrent := rfl
@[simp] theorem applyReset_mhStart (s : State) : (applyReset s).mhStart = (State.resetFrom s.draws).mhStart := rfl
@[simp] theorem applyReset_mhRollStart (s : State) : (applyReset s).mhRollStart = (State.resetFrom s.draws).mhRollStart := rfl
@[simp] theorem applyReset_mhSetting (s : State) : (applyReset s).mhSetting = (State.resetFrom s.draws).mhSetting := rfl
@[simp] theorem applyReset_mhBpf (s : State) : (applyReset s).mhBpf = (State.resetFrom s.draws).mhBpf := rfl
@[simp] theorem applyReset_rollId (s : State) : (applyReset s).rollId = (State.resetFrom s.draws).rollId := rfl
@[simp] theorem applyReset_bytesToRead (s : State) : (applyReset s).bytesToRead = (State.resetFrom s.draws).bytesToRead := rfl
@[simp] theorem applyReset_turns (s : State) : (applyReset s).turns = s.turns := rfl
@[simp] theorem applyReset_answers (s : State) : (applyReset s).answers = s.answers := rfl
@[simp] theorem applyReset_trace (s : State) : (applyReset s).trace = s.trace := rfl
@[simp] theorem applyReset_readLog (s : State) : (applyReset s).readLog = s.readLog := rfl
@[simp] theorem applyReset_draws (s : State) : (applyReset s).draws = s.draws + 519 := rfl

end Sys2Proof.Machine
end

