-- ==== Sys2Proof/Laws/Ops.lean ====
section
/-! SUPPORT. One lemma for each shared operation that says all it can do; later proofs cite these and do
not unfold the operation. -/

namespace Sys2Proof.Machine

/-! ### The oracle -/

theorem nextAnswer_cons {s : State} {a : Answer} {rest : List Answer} (h : s.answers = a :: rest) :
    nextAnswer s = (a, { s with answers := rest }) := by
  simp [nextAnswer, h]

/-- Taking an answer changes `answers` and `draws` only. -/
theorem nextAnswer_frame (s : State) :
    ∃ rest n, (nextAnswer s).2 = { s with answers := rest, draws := n } := by
  unfold nextAnswer
  split
  · exact ⟨_, _, rfl⟩
  · exact ⟨s.answers, _, rfl⟩

/-- A successful read has exactly the bytes asked. -/
theorem readResult_length {n : Nat} {a : Answer} {b : List Byte} (h : readResult n a = some b) :
    b.length = n := by
  cases a with
  | err => simp [readResult] at h
  | ok r =>
    simp only [readResult] at h
    split at h
    · cases h; simpa using ‹_›
    · cases h

theorem readResult_exact {n : Nat} {r : List Byte} (h : r.length = n) : readResult n (.ok r) = some r := by
  subst h; simp [readResult]

@[simp] theorem readResult_err (n : Nat) : readResult n .err = none := rfl

@[simp] theorem answerOk_ok (r : List Byte) : answerOk (.ok r) = true := rfl

@[simp] theorem answerOk_err : answerOk .err = false := rfl

/-! ### Step lists -/

/-- The step lists do not depend on anything but the operand registers. -/
theorem stepList_congr {s t : State} (h1 : t.aSpace = s.aSpace) (h2 : t.aLen = s.aLen)
    (h3 : t.aAddr = s.aAddr) (h4 : t.vlen = s.vlen) (h5 : t.pbuf = s.pbuf) (op : HostOp) :
    stepList t op = stepList s op := by
  cases op <;> simp [stepList, readMemoryOperands, writeToMemoryOperands, pbufPrefix, *]

/-- How many steps each operation has. -/
def stepCount : HostOp → Nat
  | .start => 6
  | .upgrade => 5
  | .endFast => 5
  | .close => 1
  | .focus => 2
  | .shoot => 2
  | .readMem => 2
  | .writeMem => 2
  | .readMemoInfo => 3
  | .getRingAddrs => 3
  | .getMhAddrs => 3
  | .getMhSetting => 3

@[simp] theorem stepList_length (s : State) (op : HostOp) : (stepList s op).length = stepCount op := by
  cases op <;> rfl

theorem stepCount_le (op : HostOp) : stepCount op ≤ 6 := by cases op <;> decide

/-- Every command a step list holds can be encoded. -/
theorem stepList_send_encodes {s : State} {op : HostOp} {i : Instr} (h : Action.send i ∈ stepList s op) :
    ∃ bs, encode i = .ok bs := by
  cases op <;> simp [stepList] at h <;> (try subst h) <;> (try (rcases h with h | h <;> subst h)) <;>
    try exact ⟨_, rfl⟩
  refine ⟨_, if_neg ?_⟩
  have := pbufPrefix_length s s.vlen.toNat
  simp only [Config.WRITE_MAX]
  omega

/-! ### Completion -/

/-- All that completing a step can do. -/
theorem finishStep_cases (s : State) :
    (s.seq.cur = none ∧ finishStep s = s) ∨
    (∃ op, s.seq.cur = some op ∧ s.seq.step < stepCount op ∧
      finishStep s = { s with seq := ⟨some op, s.seq.step + 1⟩ }) ∨
    (∃ op, s.seq.cur = some op ∧ stepCount op ≤ s.seq.step ∧ finishStep s = complete s) := by
  unfold finishStep
  cases hc : s.seq.cur with
  | none => simp
  | some op =>
    by_cases hk : s.seq.step < stepCount op
    · exact .inr (.inl ⟨op, rfl, hk, by simp [hk]⟩)
    · exact .inr (.inr ⟨op, rfl, by omega, by simp [hk]⟩)

/-- Completing a step changes `STATUS` and `SEQ` only. -/
theorem finishStep_frame (s : State) : ∃ st q, finishStep s = { s with status := st, seq := q } := by
  rcases finishStep_cases s with ⟨-, h⟩ | ⟨op, -, -, h⟩ | ⟨op, -, -, h⟩ <;> rw [h]
  · exact ⟨s.status, s.seq, rfl⟩
  · exact ⟨s.status, _, rfl⟩
  · exact ⟨_, _, rfl⟩

theorem finishStep_next {s : State} {op : HostOp} {k : Nat} (h : s.seq = ⟨some op, k⟩)
    (hk : k < stepCount op) : finishStep s = { s with seq := ⟨some op, k + 1⟩ } := by
  simp [finishStep, h, hk]

theorem finishStep_last {s : State} {op : HostOp} {k : Nat} (h : s.seq = ⟨some op, k⟩)
    (hk : stepCount op ≤ k) : finishStep s = complete s := by
  simp [finishStep, h, Nat.not_lt.mpr hk]

/-! ### What a step's work comes to, before the operation goes on or is aborted -/

/-- The work of one step: the state in which the step is done, or the error it raises with the state
in which it raises it. -/
def attempt (a : Action) (s : State) : Except (ErrKind × State) State :=
  match a with
  | .send i =>
    match encode i with
    | .error k => .error (k, s)
    | .ok bs =>
      let s1 := recordEvent (.write bs (answerOk (nextAnswer s).1)) (nextAnswer s).2
      if answerOk (nextAnswer s).1 then .ok (if i = .wakeup then { s1 with ss := .awake } else s1)
      else .error (.transportError, s1)
  | .delay => .ok (Machine.delay s)
  | .clear =>
    let s1 := recordEvent (.clear (answerOk (nextAnswer s).1)) (nextAnswer s).2
    if answerOk (nextAnswer s).1 then .ok s1 else .error (.transportError, s1)
  | .setBaud b =>
    let s1 := recordEvent (.setBaud (baudRate b) (answerOk (nextAnswer s).1)) (nextAnswer s).2
    if answerOk (nextAnswer s).1 then .ok { s1 with baud := b }
    else .error (.transportError, { s1 with baud := Config.freeSpeed s1.draws, draws := s1.draws + 1 })
  | .expect r =>
    let res := readResult (expectedBytes r).length (nextAnswer s).1
    let s1 := recordEvent (.read (expectedBytes r).length res) (nextAnswer s).2
    match res with
    | none => .error (.transportError, s1)
    | some b => if b = expectedBytes r then .ok s1 else .error (.validationError r, s1)
  | .packet n =>
    let res := readResult (n + 3) (nextAnswer s).1
    let s1 := recordEvent (.read (n + 3) res) (nextAnswer s).2
    match res with
    | none => .error (.transportError, s1)
    | some f =>
      match deserialize f with
      | .error k => .error (.frameError k, s1)
      | .ok p => .ok (storePayload p s1)
  | .enter x => .ok { s with ss := x }
  | .decode .ring =>
    match decodeRing (receivedPayload s) with
    | .ok (a, b) => .ok { s with ringStart := a, ringEnd := b }
    | .error k => .error (k, s)
  | .decode .mhAddrs =>
    match decodeMhAddrs (receivedPayload s) with
    | .ok (c, b, r) => .ok { s with mhCurrent := c, mhStart := b, mhRollStart := r }
    | .error k => .error (k, s)
  | .decode .mhSetting =>
    match (receivedPayload s).head? with
    | none => .error (.rangeError, s)
    | some x =>
      match decodeSetting x with
      | .ok m => .ok { s with mhSetting := settingCode m, mhBpf := bytesPerFrame m }
      | .error k => .error (k, s)
  | .decode .memoInfo =>
    match decodeMemoInfo (receivedPayload s) with
    | .ok (id, n) => .ok { s with rollId := BitVec.ofNat 16 id, bytesToRead := n }
    | .error k => .error (k, s)

/-- How a step ends. -/
def conclude : Except (ErrKind × State) State → State
  | .ok u => finishStep u
  | .error (k, u) => abort k u

theorem running_of_busy {s : State} (h : s.status.busy = true) : running s = currentAction s := by
  simp [running, h]

/-- A step is about to run only in a busy block, and it is the one `SEQ` is at. -/
theorem running_some {s : State} {a : Action} (h : running s = some a) :
    s.status.busy = true ∧ currentAction s = some a := by
  unfold running at h
  by_cases hb : s.status.busy = true
  · exact ⟨hb, by simpa [hb] using h⟩
  · simp [hb] at h

theorem currentAction_mem {s : State} {a : Action} (h : currentAction s = some a) :
    ∃ op, s.seq.cur = some op ∧ a ∈ stepList s op := by
  unfold currentAction at h
  split at h
  · exact ⟨_, ‹_›, List.mem_of_getElem? h⟩
  · cases h

/-- The commands a step list holds are the nine wire commands. -/
theorem exec_send {s : State} {op : HostOp} {i : Instr} (h : Action.send i ∈ stepList s op) :
    exec i s = .next (sendCommand i (fun t => if i = .wakeup then { t with ss := .awake } else t) s) := by
  cases op <;> simp [stepList, readMemoryOperands, writeToMemoryOperands, ringQuery, mhAddrsQuery,
    mhSettingQuery] at h <;> (try subst h) <;> (try (rcases h with h | h <;> subst h)) <;> rfl

/-- A busy block with a step to run: one step is the step's work and its end. -/
theorem sequencerTurn_busy {s : State} {a : Action} (hb : s.status.busy = true)
    (ha : currentAction s = some a) : sequencerTurn s = .next (conclude (attempt a s)) := by
  have hrun : running s = some a := by rw [running_of_busy hb, ha]
  have hfr := nextAnswer_frame s
  have hrun2 : ∀ {b : Action}, running s = some b → (∀ i, b ≠ .send i) → running (nextAnswer s).2 = some b := by
    intro b hbr hne
    obtain ⟨rest, n, e⟩ := hfr
    have : stepList (nextAnswer s).2 = stepList s := by
      funext op; rw [e]; exact stepList_congr rfl rfl rfl rfl rfl op
    have e2 : (nextAnswer s).2.seq = s.seq := by rw [e]
    have e3 : (nextAnswer s).2.status = s.status := by rw [e]
    simpa [running, currentAction, e2, e3, this] using hbr
  unfold sequencerTurn
  rw [if_pos hb, ha]
  cases a with
  | send i =>
    obtain ⟨op, -, hmem⟩ := currentAction_mem ha
    obtain ⟨bs, hbs⟩ := stepList_send_encodes hmem
    have hs : sendsRow s i = true := by simp [sendsRow, hrun]
    simp only [exec_send hmem, sendCommand, hs, if_true, hbs, tWrite, attempt]
    by_cases hok : answerOk (nextAnswer s).1 = true <;> simp [hok, conclude]
  | delay => rfl
  | clear =>
    simp only [clearStep, tClear, attempt]
    by_cases hok : answerOk (nextAnswer s).1 = true <;> simp [hok, conclude]
  | setBaud b =>
    simp only [setBaudStep, tSetBaud, attempt]
    by_cases hok : answerOk (nextAnswer s).1 = true <;> simp [hok, conclude]
  | expect r =>
    simp only [receive, hrun2 hrun (by simp), receiveFixed, tReadWith, attempt]
    cases hres : readResult (expectedBytes r).length (nextAnswer s).1 with
    | none => simp [conclude]
    | some b => by_cases hb2 : b = expectedBytes r <;> simp [hb2, conclude]
  | packet n =>
    simp only [receive, hrun2 hrun (by simp), receivePacket, tReadWith, attempt]
    cases hres : readResult (n + 3) (nextAnswer s).1 with
    | none => simp [conclude]
    | some f => cases hd : deserialize f <;> simp [hd, conclude]
  | enter x => rfl
  | decode d =>
    cases d with
    | ring =>
      simp only [decodeStep, decodeRingStep, attempt]
      cases decodeRing (receivedPayload s) <;> simp [conclude]
    | mhAddrs =>
      simp only [decodeStep, decodeMhAddrsStep, attempt]
      cases decodeMhAddrs (receivedPayload s) <;> simp [conclude]
    | mhSetting =>
      simp only [decodeStep, decodeMhSettingStep, attempt]
      cases (receivedPayload s).head? with
      | none => simp [conclude]
      | some x => cases h : decodeSetting x <;> simp [conclude, h]
    | memoInfo =>
      simp only [decodeStep, decodeMemoInfoStep, attempt]
      cases decodeMemoInfo (receivedPayload s) <;> simp [conclude]

/-- An idle block waits (R220). -/
theorem sequencerTurn_idle {s : State} (hb : s.status.busy = false) : sequencerTurn s = .next s := by
  simp [sequencerTurn, hb]

/-- The registers a step's work leaves alone, whichever way it ends: the operands, `STATUS`, the error
registers and `SEQ`. -/
structure SameControl (s u : State) : Prop where
  aSpace : u.aSpace = s.aSpace
  aLen : u.aLen = s.aLen
  aAddr : u.aAddr = s.aAddr
  vlen : u.vlen = s.vlen
  pbuf : u.pbuf = s.pbuf
  status : u.status = s.status
  errcode : u.errcode = s.errcode
  errsub : u.errsub = s.errsub
  errstep : u.errstep = s.errstep
  seq : u.seq = s.seq
  turns : u.turns = s.turns
  readLog : u.readLog = s.readLog

theorem SameControl.stepList {s u : State} (h : SameControl s u) (op : HostOp) :
    Machine.stepList u op = Machine.stepList s op :=
  stepList_congr h.aSpace h.aLen h.aAddr h.vlen h.pbuf op

/-- The state a step's work ends in. -/
def attemptState : Except (ErrKind × State) State → State
  | .ok u => u
  | .error (_, u) => u

theorem attempt_sameControl (a : Action) (s : State) : SameControl s (attemptState (attempt a s)) := by
  obtain ⟨rest, n, e⟩ := nextAnswer_frame s
  cases a with
  | send i =>
    simp only [attempt, e]
    cases encode i with
    | error k => constructor <;> rfl
    | ok bs =>
      cases answerOk (nextAnswer s).1
      · constructor <;> rfl
      · by_cases hw : i = .wakeup <;> simp only [hw, if_true, if_false] <;> constructor <;> rfl
  | delay => constructor <;> rfl
  | clear => simp only [attempt, e]; cases answerOk (nextAnswer s).1 <;> constructor <;> rfl
  | setBaud b => simp only [attempt, e]; cases answerOk (nextAnswer s).1 <;> constructor <;> rfl
  | expect r =>
    simp only [attempt, e]
    cases readResult (expectedBytes r).length (nextAnswer s).1 with
    | none => constructor <;> rfl
    | some b => by_cases hb : b = expectedBytes r <;> simp only [hb, if_true, if_false] <;> constructor <;> rfl
  | packet n =>
    simp only [attempt, e]
    cases readResult (n + 3) (nextAnswer s).1 with
    | none => constructor <;> rfl
    | some f => dsimp only; cases deserialize f <;> constructor <;> rfl
  | enter x => constructor <;> rfl
  | decode d =>
    cases d with
    | ring => simp only [attempt]; cases decodeRing (receivedPayload s) <;> constructor <;> rfl
    | mhAddrs => simp only [attempt]; cases decodeMhAddrs (receivedPayload s) <;> constructor <;> rfl
    | mhSetting =>
      simp only [attempt]
      cases (receivedPayload s).head? with
      | none => constructor <;> rfl
      | some x => dsimp only; cases decodeSetting x <;> constructor <;> rfl
    | memoInfo => simp only [attempt]; cases decodeMemoInfo (receivedPayload s) <;> constructor <;> rfl

/-! ### The host's operations -/

/-- All that a write of an operation's code can do (R141). -/
theorem writeOp_cases (op : HostOp) (s : State) :
    (s.status.busy = true ∧ writeOp op s = s) ∨
    (s.status.busy = false ∧ acceptedIn op s.ss = false ∧ writeOp op s = refuse .stateError (clearErrors s)) ∨
    (s.status.busy = false ∧ acceptedIn op s.ss = true ∧ op = .writeMem ∧ 255 < s.vlen.toNat ∧
      writeOp op s = refuse .encodingError (clearErrors s)) ∨
    (s.status.busy = false ∧ acceptedIn op s.ss = true ∧ (op = .writeMem → s.vlen.toNat ≤ 255) ∧
      writeOp op s = begin op (clearErrors s)) := by
  unfold writeOp
  cases hb : s.status.busy
  · cases ha : acceptedIn op s.ss
    · simp
    · by_cases hw : op = .writeMem ∧ Config.WRITE_MAX < s.vlen.toNat
      · refine .inr (.inr (.inl ⟨rfl, rfl, hw.1, hw.2, ?_⟩)); simp [hw]
      · refine .inr (.inr (.inr ⟨rfl, rfl, fun h => ?_, ?_⟩))
        · simp only [Config.WRITE_MAX] at hw; by_contra hc; exact hw ⟨h, by omega⟩
        · simp [hw]
  · simp

/-- The host operations run the acceptance procedure. -/
theorem exec_opInstr (op : HostOp) (s : State) : exec (opInstr op) s = .next (writeOp op s) := by
  cases op <;> rfl

/-- The twelve operations. -/
def allOps : List HostOp :=
  [.start, .upgrade, .endFast, .close, .focus, .shoot, .readMem, .writeMem, .readMemoInfo,
    .getRingAddrs, .getMhAddrs, .getMhSetting]

theorem mem_allOps (op : HostOp) : op ∈ allOps := by cases op <;> decide

theorem decodeOp_table : ∀ v : Byte,
    (∃ op ∈ allOps, decodeOp v = .ok (opInstr op) ∧ v = opCode op) ∨
    (decodeOp v = .error .illegalOp ∧ ∀ op ∈ allOps, v ≠ opCode op) := by decide

/-- The codes of R90, one by one. -/
theorem decodeOp_cases (v : Byte) :
    (∃ op, decodeOp v = .ok (opInstr op) ∧ v = opCode op) ∨
    (decodeOp v = .error .illegalOp ∧ ∀ op, v ≠ opCode op) := by
  rcases decodeOp_table v with ⟨op, -, h⟩ | ⟨h, hn⟩
  · exact .inl ⟨op, h⟩
  · exact .inr ⟨h, fun op => hn op (mem_allOps op)⟩

/-- A host write to a register other than `OP` changes the operand registers and `PBUF` only. -/
theorem writeRegister_frame (r : HostReg) (v : Half) (s : State) :
    ∃ a b c d p, writeRegister r v s = { s with aSpace := a, aLen := b, aAddr := c, vlen := d, pbuf := p } := by
  unfold writeRegister
  split
  · exact ⟨s.aSpace, s.aLen, s.aAddr, s.vlen, s.pbuf, rfl⟩
  · cases r <;> exact ⟨_, _, _, _, _, rfl⟩

theorem writeRegister_busy {s : State} (r : HostReg) (v : Half) (h : s.status.busy = true) :
    writeRegister r v s = s := by simp [writeRegister, h]

/-- A host read changes the read log and the draw counter only. -/
theorem readRegister_frame (r : HostReg) (s : State) :
    ∃ l n, readRegister r s = { s with readLog := l, draws := n } := by
  unfold readRegister
  split
  · exact ⟨_, _, rfl⟩
  · exact ⟨_, s.draws, rfl⟩

/-! ### One step of the machine -/

/-- All that one step can do, with the turn that was taken already gone from `s'`. -/
theorem step_cases {s t : State} (h : step s = .next t) :
    (blockNext s = true ∧ ∃ s', s' = { s with turns := s.turns.drop 1 } ∧
      ((s.status.busy = false ∧ t = s') ∨
       (s.status.busy = true ∧ ∃ a, currentAction s' = some a ∧ t = conclude (attempt a s')))) ∨
    (∃ a rest, s.turns = .host a :: rest ∧ ∃ s', s' = { s with turns := rest } ∧
      ((∃ v op, a = .write .op v ∧ t = writeOp op s') ∨
       (∃ v, a = .write .op v ∧ t = writeIllegalOp s') ∨
       (∃ r v, a = .write r v ∧ r ≠ .op ∧ t = writeRegister r v s') ∨
       (∃ r, a = .read r ∧ t = readRegister r s') ∨
       (a = .reset ∧ t = applyReset s'))) := by
  have block : ∀ s' : State, sequencerTurn s' = .next t →
      (s'.status.busy = false ∧ t = s') ∨
       (s'.status.busy = true ∧ ∃ a, currentAction s' = some a ∧ t = conclude (attempt a s')) := by
    intro s' hs
    cases hb : s'.status.busy
    · rw [sequencerTurn_idle hb] at hs; cases hs; exact .inl ⟨rfl, rfl⟩
    · refine .inr ⟨rfl, ?_⟩
      cases ha : currentAction s' with
      | none => simp [sequencerTurn, hb, ha] at hs
      | some a => rw [sequencerTurn_busy hb ha] at hs; cases hs; exact ⟨a, rfl, rfl⟩
  unfold step takeTurn at h
  rcases ht : s.turns with _ | ⟨⟨a⟩ | _, rest⟩
  · rw [ht] at h
    refine .inl ⟨by simp [blockNext, ht], s, ?_, block s h⟩
    cases s; simp_all
  rotate_left
  · rw [ht] at h
    exact .inl ⟨by simp [blockNext, ht], { s with turns := rest }, by simp, block _ h⟩
  · rw [ht] at h
    refine .inr ⟨a, rest, rfl, _, rfl, ?_⟩
    cases a with
    | write r v =>
      by_cases hr : r = .op
      · subst hr
        simp only [hostTurn, decode] at h
        rcases decodeOp_cases (lowByte v) with ⟨op, hd, -⟩ | ⟨hd, -⟩
        · rw [hd] at h; simp only [exec_opInstr] at h; cases h; exact .inl ⟨v, op, rfl, rfl⟩
        · rw [hd] at h; cases h; exact .inr (.inl ⟨v, rfl, rfl⟩)
      · refine .inr (.inr (.inl ⟨r, v, rfl, hr, ?_⟩))
        cases r <;> simp_all [hostTurn]
    | read r => cases h; exact .inr (.inr (.inr (.inl ⟨r, rfl, rfl⟩)))
    | reset => cases h; exact .inr (.inr (.inr (.inr ⟨rfl, rfl⟩)))

end Sys2Proof.Machine
end

