-- ==== Sys2Proof/Laws/PerInstr.lean ====
section
/-! SUPPORT. Statements made of every instruction as syntax, one lemma for each constructor. -/

namespace Sys2Proof.Laws.EncodesNonempty

/-- A well-formed instruction has an encoding, and it is not empty: every write and every read the block
makes moves at least one byte (R61, R62). -/
def Statement (i : Instr) : Prop := i.wellFormed = true → ∃ bs, encode i = .ok bs ∧ bs ≠ []

theorem start : Statement .start := fun _ => ⟨_, rfl, List.cons_ne_nil _ _⟩

theorem upgrade : Statement .upgrade := fun _ => ⟨_, rfl, List.cons_ne_nil _ _⟩

theorem endFast : Statement .endFast := fun _ => ⟨_, rfl, List.cons_ne_nil _ _⟩

theorem close : Statement .close := fun _ => ⟨_, rfl, List.cons_ne_nil _ _⟩

theorem focus : Statement .focus := fun _ => ⟨_, rfl, List.cons_ne_nil _ _⟩

theorem shoot : Statement .shoot := fun _ => ⟨_, rfl, List.cons_ne_nil _ _⟩

theorem readMem : Statement .readMem := fun _ => ⟨_, rfl, List.cons_ne_nil _ _⟩

theorem writeMem : Statement .writeMem := fun _ => ⟨_, rfl, List.cons_ne_nil _ _⟩

theorem readMemoInfo : Statement .readMemoInfo := fun _ => ⟨_, rfl, List.cons_ne_nil _ _⟩

theorem getRingAddrs : Statement .getRingAddrs := fun _ => ⟨_, rfl, List.cons_ne_nil _ _⟩

theorem getMhAddrs : Statement .getMhAddrs := fun _ => ⟨_, rfl, List.cons_ne_nil _ _⟩

theorem getMhSetting : Statement .getMhSetting := fun _ => ⟨_, rfl, List.cons_ne_nil _ _⟩

theorem wakeup : Statement .wakeup := fun _ => ⟨_, rfl, List.cons_ne_nil _ _⟩

theorem unitInquiry : Statement .unitInquiry := fun _ => ⟨_, rfl, List.cons_ne_nil _ _⟩

theorem cmdFocus : Statement .cmdFocus := fun _ => ⟨_, rfl, List.cons_ne_nil _ _⟩

theorem cmdShoot : Statement .cmdShoot := fun _ => ⟨_, rfl, List.cons_ne_nil _ _⟩

theorem readMemory (space : Byte) (address : Half) (length : Byte) :
    Statement (.readMemory space address length) := fun _ => ⟨_, rfl, by simp [cmd9]⟩

theorem writeToMemory (address : Half) (values : List Byte) : Statement (.writeToMemory address values) := by
  intro h
  have hv : values.length ≤ Config.WRITE_MAX := of_decide_eq_true h
  exact ⟨_, if_neg (Nat.not_lt.mpr hv), by simp [wrh8]⟩

theorem eot : Statement .eot := fun _ => ⟨_, rfl, List.cons_ne_nil _ _⟩

theorem baudUp : Statement .baudUp := fun _ => ⟨_, rfl, by simp [OpenCommand.bytes]⟩

theorem readMemoHolderInfo : Statement .readMemoHolderInfo := fun _ => ⟨_, rfl, by simp [OpenCommand.bytes]⟩

theorem okResponse : Statement .okResponse := fun _ => ⟨_, rfl, List.cons_ne_nil _ _⟩

theorem unitIdResponse : Statement .unitIdResponse := fun _ => ⟨_, rfl, List.cons_ne_nil _ _⟩

theorem eotEcho : Statement .eotEcho := fun _ => ⟨_, rfl, List.cons_ne_nil _ _⟩

theorem dataPacket (payload : List Byte) : Statement (.dataPacket payload) :=
  fun _ => ⟨_, rfl, by simp [Machine.serialize]⟩

end Sys2Proof.Laws.EncodesNonempty
end

