-- ==== Sys2Proof/Laws/Steps.lean ====
section
/-! SUPPORT. What the steps of an operation do, one lemma for each way a step can end, and the lemmas
that chain them from the `OP` write to the end of the operation. -/

namespace Sys2Proof.Machine

/-! ### What a step's work changes -/

/-- `SS` after a step's work has succeeded. -/
def ssAfter (a : Action) (x : SessionState) : SessionState :=
  match a with
  | .send i => if i = .wakeup then .awake else x
  | .enter y => y
  | _ => x

/-- `BAUD` after a step's work has succeeded. -/
def baudAfter (a : Action) (b : LineSpeed) : LineSpeed :=
  match a with
  | .setBaud c => c
  | _ => b

/-- `RLEN` after a step's work has succeeded. -/
def rlenAfter (a : Action) (n : Byte) : Byte :=
  match a with
  | .packet k => BitVec.ofNat 8 k
  | _ => n

/-- An accepted frame has 3 bytes more than its payload, which is not empty. -/
theorem deserialize_length {f p : List Byte} (h : deserialize f = .ok p) :
    4 ≤ f.length ∧ p.length = f.length - 3 := by
  unfold deserialize at h
  by_cases c1 : f.length < 4
  · simp [c1, Config.MIN_FRAME] at h
  by_cases c2 : f[0]? = some Config.STX
  case neg => simp [c1, c2, Config.MIN_FRAME] at h
  by_cases c3 : f[f.length - 1]? = some Config.ETX
  case neg => simp [c1, c2, c3, Config.MIN_FRAME] at h
  by_cases c4 : some (checksum (slice f 1 (f.length - 2))) = f[f.length - 2]?
  case neg => simp [c1, c2, c3, c4, Config.MIN_FRAME] at h
  simp [c1, c2, c3, c4, Config.MIN_FRAME] at h
  subst h
  simp [slice]; omega

/-- What a successful step leaves in `SS`, `BAUD` and `RLEN`. -/
theorem attempt_ok {a : Action} {s u : State} (h : attempt a s = .ok u) :
    u.ss = ssAfter a s.ss ∧ u.baud = baudAfter a s.baud ∧ u.rlen = rlenAfter a s.rlen := by
  obtain ⟨rest, n, e⟩ := nextAnswer_frame s
  cases a with
  | send i =>
    simp only [attempt, e] at h
    split at h
    · cases h
    · split at h
      · by_cases hw : i = .wakeup <;> simp only [hw, if_true, if_false] at h <;> cases h <;>
          simp [ssAfter, baudAfter, rlenAfter, hw]
      · cases h
  | delay => cases h; simp [ssAfter, baudAfter, rlenAfter]
  | clear =>
    simp only [attempt, e] at h
    split at h <;> cases h; simp [ssAfter, baudAfter, rlenAfter]
  | setBaud b =>
    simp only [attempt, e] at h
    split at h <;> cases h; simp [ssAfter, baudAfter, rlenAfter]
  | expect r =>
    simp only [attempt, e] at h
    split at h
    · cases h
    · split at h <;> cases h; simp [ssAfter, baudAfter, rlenAfter]
  | packet k =>
    simp only [attempt, e] at h
    split at h
    · cases h
    · rename_i f hf
      split at h
      · cases h
      · rename_i p hp
        cases h
        have := deserialize_length hp
        have := readResult_length hf
        have : p.length = k := by omega
        simp [ssAfter, baudAfter, rlenAfter, this]
  | enter x => cases h; simp [ssAfter, baudAfter, rlenAfter]
  | decode d =>
    cases d <;> simp only [attempt] at h
    · split at h <;> cases h; simp [ssAfter, baudAfter, rlenAfter]
    · split at h <;> cases h; simp [ssAfter, baudAfter, rlenAfter]
    · split at h
      · cases h
      · split at h <;> cases h; simp [ssAfter, baudAfter, rlenAfter]
    · split at h <;> cases h; simp [ssAfter, baudAfter, rlenAfter]

/-- The session of a running operation moves as its next step, or its end, needs. -/
theorem session_step {s : State} {op : HostOp} {k : Nat} {a : Action} {x : SessionState} {b : LineSpeed}
    (ha : (stepList s op)[k - 1]? = some a) (h1 : 1 ≤ k) (h2 : k ≤ stepCount op)
    (h : sessionWhileRunning op k x b) :
    (k < stepCount op → sessionWhileRunning op (k + 1) (ssAfter a x) (baudAfter a b)) ∧
    (k = stepCount op → sessionAtRest (ssAfter a x) (baudAfter a b)) := by
  cases op <;> simp only [stepCount] at h2 ⊢ <;> interval_cases k <;>
    simp [stepList, readMemoryOperands, writeToMemoryOperands, ringQuery, mhAddrsQuery, mhSettingQuery] at ha <;>
    subst ha <;> simp_all [sessionWhileRunning, ssAfter, baudAfter, sessionAtRest] <;>
    (try rcases h with ⟨rfl, rfl⟩ | ⟨rfl, rfl⟩) <;> simp_all

/-- A decode step comes after a packet of its length. -/
theorem decode_after {s : State} {op : HostOp} {k : Nat} {a : Action} {d : Decoder}
    (ha : (stepList s op)[k - 1]? = some a) (h1 : 1 ≤ k)
    (hd : (stepList s op)[k]? = some (.decode d)) (n : Byte) : (rlenAfter a n).toNat = decodeLength d := by
  have h2 : k < stepCount op := by
    have := (List.getElem?_eq_some_iff.mp hd).1
    simpa using this
  cases op <;> simp only [stepCount] at h2 <;> interval_cases k <;>
    simp [stepList] at ha hd <;>
    subst ha <;> subst hd <;> rfl

/-- The step `SEQ` is at depends on `SEQ` and the operands only. -/
theorem currentAction_congr {s t : State} (h1 : t.aSpace = s.aSpace) (h2 : t.aLen = s.aLen)
    (h3 : t.aAddr = s.aAddr) (h4 : t.vlen = s.vlen) (h5 : t.pbuf = s.pbuf) (h6 : t.seq = s.seq) :
    currentAction t = currentAction s := by
  have h : stepList t = stepList s := funext fun op => stepList_congr h1 h2 h3 h4 h5 op
  unfold currentAction; rw [h, h6]

/-- The errors a step can raise, its command encodable and its payload of the right length (R192). -/
def CanRaise : Action → ErrKind → Prop
  | .send _, k => k = .transportError
  | .delay, _ => False
  | .clear, k => k = .transportError
  | .setBaud _, k => k = .transportError
  | .expect r, k => k = .transportError ∨ k = .validationError r
  | .packet n, k => k = .transportError ∨ ∃ e, k = .frameError e ∧ (e = .tooShort → n = 0)
  | .enter _, _ => False
  | .decode d, k => (d = .mhSetting ∧ k = .settingError) ∨ (d = .memoInfo ∧ k = .bcdError)

theorem attempt_error {a : Action} {s u : State} {k : ErrKind} (h : attempt a s = .error (k, u))
    (hd : ∀ d, a = .decode d → s.rlen.toNat = decodeLength d)
    (hs : ∀ i, a = .send i → ∃ bs, encode i = .ok bs) : CanRaise a k := by
  have hlen : ∀ n, s.rlen.toNat = n → n ≤ 255 → (receivedPayload s).length = n := by
    intro n hn h2; simp [receivedPayload, hn]; omega
  cases a with
  | send i =>
    obtain ⟨bs, hbs⟩ := hs i rfl
    simp only [attempt, hbs] at h
    split at h <;> cases h; rfl
  | delay => cases h
  | clear => simp only [attempt] at h; split at h <;> cases h; rfl
  | setBaud b => simp only [attempt] at h; split at h <;> cases h; rfl
  | expect r =>
    simp only [attempt] at h
    split at h
    · cases h; exact .inl rfl
    · split at h <;> cases h; exact .inr rfl
  | packet n =>
    simp only [attempt] at h
    split at h
    · cases h; exact .inl rfl
    · rename_i f hf
      split at h <;> cases h
      rename_i e he
      refine .inr ⟨e, rfl, ?_⟩
      intro he2; subst he2
      have hl := readResult_length hf
      by_contra hn
      unfold deserialize at he
      have : ¬ f.length < 4 := by omega
      by_cases c2 : f[0]? = some Config.STX
      case neg => simp [this, c2, Config.MIN_FRAME] at he
      by_cases c3 : f[f.length - 1]? = some Config.ETX
      case neg => simp [this, c2, c3, Config.MIN_FRAME] at he
      by_cases c4 : some (checksum (slice f 1 (f.length - 2))) = f[f.length - 2]?
      case neg => simp [this, c2, c3, c4, Config.MIN_FRAME] at he
      simp [this, c2, c3, c4, Config.MIN_FRAME] at he
  | enter x => cases h
  | decode d =>
    have hd := hd d rfl
    cases d with
    | ring =>
      have := hlen 4 hd (by omega)
      obtain ⟨w, x, y, z, e⟩ : ∃ w x y z, receivedPayload s = [w, x, y, z] := by
        match hh : receivedPayload s, this with
        | [w, x, y, z], _ => exact ⟨w, x, y, z, rfl⟩
      simp only [attempt, e] at h; cases h
    | mhAddrs =>
      have := hlen 6 hd (by omega)
      obtain ⟨w, x, y, z, p, q, e⟩ : ∃ w x y z p q, receivedPayload s = [w, x, y, z, p, q] := by
        match hh : receivedPayload s, this with
        | [w, x, y, z, p, q], _ => exact ⟨w, x, y, z, p, q, rfl⟩
      simp only [attempt, e] at h; cases h
    | mhSetting =>
      have := hlen 1 hd (by omega)
      obtain ⟨w, e⟩ : ∃ w, receivedPayload s = [w] := by
        match hh : receivedPayload s, this with
        | [w], _ => exact ⟨w, rfl⟩
      simp only [attempt, e, List.head?] at h
      split at h
      · cases h
      · rename_i k' hk
        cases h
        unfold decodeSetting at hk
        split at hk; · cases hk
        split at hk; · cases hk
        split at hk; · cases hk
        split at hk; · cases hk
        cases hk; exact .inl ⟨rfl, rfl⟩
    | memoInfo =>
      have := hlen 4 hd (by omega)
      obtain ⟨w, x, y, z, e⟩ : ∃ w x y z, receivedPayload s = [w, x, y, z] := by
        match hh : receivedPayload s, this with
        | [w, x, y, z], _ => exact ⟨w, x, y, z, rfl⟩
      simp only [attempt, e] at h
      simp only [decodeMemoInfo, readU16le] at h
      cases hb : readBcd4 (x ++ w) with
      | error k' =>
        have hk : k' = .bcdError := by
          unfold readBcd4 at hb; split at hb <;> cases hb; rfl
        subst hk
        simp [hb, bind, Except.bind] at h
        exact .inr ⟨rfl, h.1.symm⟩
      | ok v => simp [hb, bind, Except.bind, pure, Except.pure] at h

/-- What a step's work leaves alone, whichever way it ends. -/
structure WorkFrame (a : Action) (s u : State) : Prop where
  baud : (∀ b, a ≠ .setBaud b) → u.baud = s.baud
  received : (∀ n, a ≠ .packet n) → u.rbuf = s.rbuf ∧ u.rlen = s.rlen
  ring : a ≠ .decode .ring → u.ringStart = s.ringStart ∧ u.ringEnd = s.ringEnd
  mhAddrs : a ≠ .decode .mhAddrs →
    u.mhCurrent = s.mhCurrent ∧ u.mhStart = s.mhStart ∧ u.mhRollStart = s.mhRollStart
  mhSetting : a ≠ .decode .mhSetting → u.mhSetting = s.mhSetting ∧ u.mhBpf = s.mhBpf
  memoInfo : a ≠ .decode .memoInfo → u.rollId = s.rollId ∧ u.bytesToRead = s.bytesToRead
  trace : u.trace = s.trace ∨ ∃ e, u.trace = s.trace ++ [e]

/-- A state that differs from `s` in `SS`, the answers, the draws and one event. -/
theorem workFrame_event (a : Action) (s : State) (x : SessionState) (l : List Answer) (n : Nat) (e : Event) :
    WorkFrame a s { s with ss := x, answers := l, draws := n, trace := s.trace ++ [e] } :=
  ⟨fun _ => rfl, fun _ => ⟨rfl, rfl⟩, fun _ => ⟨rfl, rfl⟩, fun _ => ⟨rfl, rfl, rfl⟩, fun _ => ⟨rfl, rfl⟩,
    fun _ => ⟨rfl, rfl⟩, .inr ⟨e, rfl⟩⟩

theorem workFrame_refl (a : Action) (s : State) : WorkFrame a s s :=
  ⟨fun _ => rfl, fun _ => ⟨rfl, rfl⟩, fun _ => ⟨rfl, rfl⟩, fun _ => ⟨rfl, rfl, rfl⟩, fun _ => ⟨rfl, rfl⟩,
    fun _ => ⟨rfl, rfl⟩, .inl rfl⟩

theorem attempt_frame (a : Action) (s : State) : WorkFrame a s (attemptState (attempt a s)) := by
  obtain ⟨rest, n, e⟩ := nextAnswer_frame s
  cases a with
  | send i =>
    simp only [attempt, e]
    cases encode i with
    | error k => exact workFrame_refl _ s
    | ok bs =>
      cases answerOk (nextAnswer s).1
      · exact workFrame_event _ s s.ss rest n _
      · by_cases hw : i = .wakeup <;> simp only [hw, if_true, if_false]
        · exact workFrame_event _ s .awake rest n _
        · exact workFrame_event _ s s.ss rest n _
  | delay => exact workFrame_event _ s s.ss s.answers s.draws _
  | clear =>
    simp only [attempt, e]
    cases answerOk (nextAnswer s).1 <;> exact workFrame_event _ s s.ss rest n _
  | setBaud b =>
    simp only [attempt, e]
    cases answerOk (nextAnswer s).1 <;>
      exact ⟨fun h => absurd rfl (h b), fun _ => ⟨rfl, rfl⟩, fun _ => ⟨rfl, rfl⟩, fun _ => ⟨rfl, rfl, rfl⟩,
        fun _ => ⟨rfl, rfl⟩, fun _ => ⟨rfl, rfl⟩, .inr ⟨_, rfl⟩⟩
  | expect r =>
    simp only [attempt, e]
    cases readResult (expectedBytes r).length (nextAnswer s).1 with
    | none => exact workFrame_event _ s s.ss rest n _
    | some b =>
      by_cases hb : b = expectedBytes r <;> simp only [hb, if_true, if_false] <;>
        exact workFrame_event _ s s.ss rest n _
  | packet m =>
    simp only [attempt, e]
    cases readResult (m + 3) (nextAnswer s).1 with
    | none => exact workFrame_event _ s s.ss rest n _
    | some f =>
      dsimp only
      cases deserialize f with
      | error k => exact workFrame_event _ s s.ss rest n _
      | ok p =>
        exact ⟨fun _ => rfl, fun h => absurd rfl (h m), fun _ => ⟨rfl, rfl⟩, fun _ => ⟨rfl, rfl, rfl⟩,
          fun _ => ⟨rfl, rfl⟩, fun _ => ⟨rfl, rfl⟩, .inr ⟨_, rfl⟩⟩
  | enter x =>
    exact ⟨fun _ => rfl, fun _ => ⟨rfl, rfl⟩, fun _ => ⟨rfl, rfl⟩, fun _ => ⟨rfl, rfl, rfl⟩, fun _ => ⟨rfl, rfl⟩,
      fun _ => ⟨rfl, rfl⟩, .inl rfl⟩
  | decode d =>
    cases d with
    | ring =>
      simp only [attempt]
      cases decodeRing (receivedPayload s) with
      | error k => exact workFrame_refl _ s
      | ok v =>
        exact ⟨fun _ => rfl, fun _ => ⟨rfl, rfl⟩, fun h => absurd rfl h, fun _ => ⟨rfl, rfl, rfl⟩,
          fun _ => ⟨rfl, rfl⟩, fun _ => ⟨rfl, rfl⟩, .inl rfl⟩
    | mhAddrs =>
      simp only [attempt]
      cases decodeMhAddrs (receivedPayload s) with
      | error k => exact workFrame_refl _ s
      | ok v =>
        exact ⟨fun _ => rfl, fun _ => ⟨rfl, rfl⟩, fun _ => ⟨rfl, rfl⟩, fun h => absurd rfl h,
          fun _ => ⟨rfl, rfl⟩, fun _ => ⟨rfl, rfl⟩, .inl rfl⟩
    | mhSetting =>
      simp only [attempt]
      cases (receivedPayload s).head? with
      | none => exact workFrame_refl _ s
      | some x =>
        dsimp only
        cases decodeSetting x with
        | error k => exact workFrame_refl _ s
        | ok m =>
          exact ⟨fun _ => rfl, fun _ => ⟨rfl, rfl⟩, fun _ => ⟨rfl, rfl⟩, fun _ => ⟨rfl, rfl, rfl⟩,
            fun h => absurd rfl h, fun _ => ⟨rfl, rfl⟩, .inl rfl⟩
    | memoInfo =>
      simp only [attempt]
      cases decodeMemoInfo (receivedPayload s) with
      | error k => exact workFrame_refl _ s
      | ok v =>
        exact ⟨fun _ => rfl, fun _ => ⟨rfl, rfl⟩, fun _ => ⟨rfl, rfl⟩, fun _ => ⟨rfl, rfl, rfl⟩,
          fun _ => ⟨rfl, rfl⟩, fun h => absurd rfl h, .inl rfl⟩

/-- A decode step that raises an error changes nothing. -/
theorem attempt_decode_error {d : Decoder} {s u : State} {k : ErrKind}
    (h : attempt (.decode d) s = .error (k, u)) : u = s := by
  cases d with
  | ring => simp only [attempt] at h; split at h <;> cases h; rfl
  | mhAddrs => simp only [attempt] at h; split at h <;> cases h; rfl
  | mhSetting =>
    simp only [attempt] at h
    split at h
    · cases h; rfl
    · split at h <;> cases h; rfl
  | memoInfo => simp only [attempt] at h; split at h <;> cases h; rfl

/-! ### Each step's work when the answer is known -/

theorem attempt_send_ok {i : Instr} {s : State} {bs d : List Byte} {rest : List Answer}
    (he : encode i = .ok bs) (ha : s.answers = .ok d :: rest) :
    attempt (.send i) s = .ok { s with
      ss := if i = .wakeup then .awake else s.ss
      answers := rest, trace := s.trace ++ [.write bs true] } := by
  simp only [attempt, he, nextAnswer_cons ha, answerOk_ok, if_true]
  split <;> rfl

theorem attempt_send_err {i : Instr} {s : State} {bs : List Byte} {rest : List Answer}
    (he : encode i = .ok bs) (ha : s.answers = .err :: rest) :
    attempt (.send i) s =
      .error (.transportError, { s with answers := rest, trace := s.trace ++ [.write bs false] }) := by
  simp only [attempt, he, nextAnswer_cons ha, answerOk_err]
  rfl

theorem attempt_delay (s : State) :
    attempt .delay s = .ok { s with trace := s.trace ++ [.delay 200] } := rfl

theorem attempt_clear_ok {s : State} {d : List Byte} {rest : List Answer} (ha : s.answers = .ok d :: rest) :
    attempt .clear s = .ok { s with answers := rest, trace := s.trace ++ [.clear true] } := by
  simp only [attempt, nextAnswer_cons ha, answerOk_ok, if_true]
  rfl

theorem attempt_clear_err {s : State} {rest : List Answer} (ha : s.answers = .err :: rest) :
    attempt .clear s =
      .error (.transportError, { s with answers := rest, trace := s.trace ++ [.clear false] }) := by
  simp only [attempt, nextAnswer_cons ha, answerOk_err]
  rfl

theorem attempt_setBaud_ok {b : LineSpeed} {s : State} {d : List Byte} {rest : List Answer}
    (ha : s.answers = .ok d :: rest) :
    attempt (.setBaud b) s =
      .ok { s with baud := b, answers := rest, trace := s.trace ++ [.setBaud (baudRate b) true] } := by
  simp only [attempt, nextAnswer_cons ha, answerOk_ok, if_true]
  rfl

theorem attempt_setBaud_err {b : LineSpeed} {s : State} {rest : List Answer} (ha : s.answers = .err :: rest) :
    attempt (.setBaud b) s =
      .error (.transportError, { s with
        baud := Config.freeSpeed s.draws, answers := rest, draws := s.draws + 1
        trace := s.trace ++ [.setBaud (baudRate b) false] }) := by
  simp only [attempt, nextAnswer_cons ha, answerOk_err]
  rfl

/-- A fixed response of the right length: equal, or a `ValidationError` (R130 to R133). -/
theorem attempt_expect_ok {r : FixedResponse} {s : State} {b : List Byte} {rest : List Answer}
    (ha : s.answers = .ok b :: rest) (hl : b.length = (expectedBytes r).length) :
    attempt (.expect r) s =
      if b = expectedBytes r then
        .ok { s with answers := rest, trace := s.trace ++ [.read (expectedBytes r).length (some b)] }
      else .error (.validationError r,
        { s with answers := rest, trace := s.trace ++ [.read (expectedBytes r).length (some b)] }) := by
  simp only [attempt, nextAnswer_cons ha, readResult_exact hl]
  rfl

theorem attempt_expect_err {r : FixedResponse} {s : State} {rest : List Answer} (ha : s.answers = .err :: rest) :
    attempt (.expect r) s =
      .error (.transportError,
        { s with answers := rest, trace := s.trace ++ [.read (expectedBytes r).length none] }) := by
  simp only [attempt, nextAnswer_cons ha, readResult_err]
  rfl

/-- A validator, whatever the transport answers: the read's own error first, then all bytes compared
(R130). -/
theorem attempt_expect {r : FixedResponse} {s : State} {a : Answer} {rest : List Answer} (ha : s.answers = a :: rest) :
    attempt (.expect r) s =
      match readResult (expectedBytes r).length a with
      | none =>
        .error (.transportError,
          { s with answers := rest, trace := s.trace ++ [.read (expectedBytes r).length none] })
      | some b =>
        if b = expectedBytes r then
          .ok { s with answers := rest, trace := s.trace ++ [.read (expectedBytes r).length (some b)] }
        else .error (.validationError r,
          { s with answers := rest, trace := s.trace ++ [.read (expectedBytes r).length (some b)] }) := by
  simp only [attempt, nextAnswer_cons ha]
  cases readResult (expectedBytes r).length a <;> rfl

/-- A packet read, whatever the transport answers (R130, R134). -/
theorem attempt_packet {n : Nat} {s : State} {a : Answer} {rest : List Answer} (ha : s.answers = a :: rest) :
    attempt (.packet n) s =
      match readResult (n + 3) a with
      | none =>
        .error (.transportError, { s with answers := rest, trace := s.trace ++ [.read (n + 3) none] })
      | some f =>
        match deserialize f with
        | .error k =>
          .error (.frameError k, { s with answers := rest, trace := s.trace ++ [.read (n + 3) (some f)] })
        | .ok p =>
          .ok (storePayload p { s with answers := rest, trace := s.trace ++ [.read (n + 3) (some f)] }) := by
  simp only [attempt, nextAnswer_cons ha]
  cases readResult (n + 3) a <;> rfl

/-- A packet read that got an acceptable frame: its payload is stored (R134). -/
theorem attempt_packet_ok {n : Nat} {s : State} {f p : List Byte} {rest : List Answer}
    (ha : s.answers = .ok f :: rest) (hl : f.length = n + 3) (hp : deserialize f = .ok p) :
    attempt (.packet n) s =
      .ok (storePayload p { s with answers := rest, trace := s.trace ++ [.read (n + 3) (some f)] }) := by
  simp only [attempt, nextAnswer_cons ha, readResult_exact hl, hp]
  rfl

/-- A packet read that got another frame: a `FrameError` (R134). -/
theorem attempt_packet_bad {n : Nat} {s : State} {f : List Byte} {k : FrameErr} {rest : List Answer}
    (ha : s.answers = .ok f :: rest) (hl : f.length = n + 3) (hp : deserialize f = .error k) :
    attempt (.packet n) s =
      .error (.frameError k, { s with answers := rest, trace := s.trace ++ [.read (n + 3) (some f)] }) := by
  simp only [attempt, nextAnswer_cons ha, readResult_exact hl, hp]
  rfl

theorem attempt_packet_err {n : Nat} {s : State} {rest : List Answer} (ha : s.answers = .err :: rest) :
    attempt (.packet n) s =
      .error (.transportError, { s with answers := rest, trace := s.trace ++ [.read (n + 3) none] }) := by
  simp only [attempt, nextAnswer_cons ha, readResult_err]
  rfl

/-! ### Chaining steps while the host waits -/

/-- On the block's turn the sequencer moves. -/
theorem step_block {s : State} (h : blockNext s = true) :
    step s = sequencerTurn { s with turns := s.turns.drop 1 } := by
  unfold step takeTurn
  unfold blockNext at h
  split at h
  · rename_i e
    have : { s with turns := s.turns.drop 1 } = s := by cases s; simp_all
    exact this.symm ▸ by simp only [e]
  · rename_i e; simp [e]
  · cases h

theorem hostQuiet_block {s : State} (h : hostQuiet s = true) : blockNext s = true := by
  unfold hostQuiet at h
  unfold blockNext
  split <;> simp_all

theorem hostQuiet_drop {s t : State} (h : hostQuiet s = true) {k : Nat} (ht : t.turns = s.turns.drop k) :
    hostQuiet t = true := by
  unfold hostQuiet at *
  rw [List.all_eq_true] at *
  intro x hx
  rw [ht] at hx
  exact h x (List.mem_of_mem_drop hx)

/-- `n` steps of the machine, in terms of `step`. -/
theorem run_succ {n : Nat} {s u : State} (h : step s = .next u) :
    Host.Core.run Sys2Proof.core (n + 1) s = Host.Core.run Sys2Proof.core n u := by
  have e : Sys2Proof.core.step s = .next u := h
  simp only [Host.Core.run, e]

/-- A busy block's step, the host waiting. -/
theorem step_busy {s : State} {a : Action} (hq : blockNext s = true) (hb : s.status.busy = true)
    (ha : currentAction s = some a) :
    step s = .next (conclude (attempt a { s with turns := s.turns.drop 1 })) := by
  rw [step_block hq]
  exact sequencerTurn_busy hb (by rw [← ha]; exact currentAction_congr rfl rfl rfl rfl rfl rfl)

/-- A step that succeeds and is not the last. -/
theorem step_goes_on {s u : State} {a : Action} {op : HostOp} {k : Nat} (hq : blockNext s = true)
    (hb : s.status.busy = true) (hs : s.seq = ⟨some op, k⟩) (ha : currentAction s = some a)
    (hk : k < stepCount op) (hu : attempt a { s with turns := s.turns.drop 1 } = .ok u) :
    step s = .next { u with seq := ⟨some op, k + 1⟩ } := by
  have hc := attempt_sameControl a { s with turns := s.turns.drop 1 }
  rw [hu] at hc
  have e : u.seq = ⟨some op, k⟩ := hc.seq.trans hs
  rw [step_busy hq hb ha, hu, conclude, finishStep_next e hk]

/-- The last step of an operation succeeds: the operation completes. -/
theorem step_completes {s u : State} {a : Action} {op : HostOp} {k : Nat} (hq : blockNext s = true)
    (hb : s.status.busy = true) (hs : s.seq = ⟨some op, k⟩) (ha : currentAction s = some a)
    (hk : stepCount op ≤ k) (hu : attempt a { s with turns := s.turns.drop 1 } = .ok u) :
    step s = .next (complete u) := by
  have hc := attempt_sameControl a { s with turns := s.turns.drop 1 }
  rw [hu] at hc
  have e : u.seq = ⟨some op, k⟩ := hc.seq.trans hs
  rw [step_busy hq hb ha, hu, conclude, finishStep_last e hk]

/-- A step that raises an error: the operation is aborted. -/
theorem step_aborts {s u : State} {a : Action} {k : ErrKind} (hq : blockNext s = true)
    (hb : s.status.busy = true) (ha : currentAction s = some a)
    (hu : attempt a { s with turns := s.turns.drop 1 } = .error (k, u)) : step s = .next (abort k u) := by
  rw [step_busy hq hb ha, hu, conclude]

/-- An accepted write of an operation's code starts it (R141 A4). -/
theorem writeOp_starts {op : HostOp} {s : State} (hb : s.status.busy = false)
    (ha : acceptedIn op s.ss = true) (hw : op = .writeMem → s.vlen.toNat ≤ 255) :
    writeOp op s = { s with
      status := ⟨true, false, false⟩, errcode := 0, errsub := 0, errstep := 0, seq := ⟨some op, 1⟩ } := by
  rcases writeOp_cases op s with ⟨h, -⟩ | ⟨-, h, -⟩ | ⟨-, -, h, h2, -⟩ | ⟨-, -, -, e⟩
  · simp [hb] at h
  · simp [ha] at h
  · have := hw h; omega
  · rw [e]; rfl

end Sys2Proof.Machine
end

