-- ==== Sys2Proof/Tests/Slice0.lean ====
section
/-! SUPPORT. The model's own tests: the vectors of spec/95_test_vectors.md (S1 to V115) and words written
out from the formats of spec/30_encoding.md, and for every obligation with hypotheses a state and
operands that meet them. -/

namespace Sys2Proof.Tests

open Sys2Proof Sys2Proof.Machine Sys2Proof.Claims

/-! ### States to test on -/

/-- A buffer of zeros. -/
def zeros : Buf := Vector.replicate 255 0

/-- An idle block with zeros in every register the spec leaves unspecified. -/
def base : State where
  aSpace := 0
  aLen := 0
  aAddr := 0
  vlen := 0
  pbuf := zeros
  rbuf := zeros
  rlen := 0
  status := ⟨false, false, false⟩
  errcode := 0
  errsub := 0
  errstep := 0
  ss := .idle
  baud := .default
  seq := ⟨none, 0⟩
  ringStart := 0
  ringEnd := 0
  mhCurrent := 0
  mhStart := 0
  mhRollStart := 0
  mhSetting := 0
  mhBpf := 0
  rollId := 0
  bytesToRead := 0
  turns := []
  answers := []
  trace := []
  readLog := []
  draws := 0

/-- An idle block in session state `x`, the transport about to answer `as`. -/
def ready (x : SessionState) (as : List Answer) : State :=
  { base with ss := x, baud := if x = .fastMode then .fast else .default, answers := as }

/-- A block about to run step `k` of `op`, in session state `x` at speed `b`. -/
def busyAt (op : HostOp) (k : Nat) (x : SessionState) (b : LineSpeed) (as : List Answer) : State :=
  { base with status := ⟨true, false, false⟩, seq := ⟨some op, k⟩, ss := x, baud := b, answers := as }

/-- One value of the next state, where there is one. -/
def look {α : Type} (f : State → α) : StepResult → Option α
  | .next t => some (f t)
  | .fault _ => none
  | .refused _ => none

/-- What a refusal and an abort leave: `SS`, `STATUS`, `ERRCODE`, `ERRSUB`, `ERRSTEP`. -/
def outcome (s : State) : SessionState × Status × Byte × Byte × Byte :=
  (s.ss, s.status, s.errcode, s.errsub, s.errstep)

/-- One step after an `OP` write. -/
def writing (v : Half) (s : State) : StepResult := step { s with turns := [.host (.write .op v)] }

/-! ### What WellFormed refuses -/

theorem test_write_of_256_is_ill_formed :
    (Instr.writeToMemory 0 (List.replicate 256 0)).wellFormed = false := by decide +kernel

theorem test_write_of_255_is_well_formed :
    (Instr.writeToMemory 0 (List.replicate 255 0)).wellFormed = true := by decide +kernel

theorem test_empty_packet_is_ill_formed : (Instr.dataPacket []).wellFormed = false := by decide

theorem test_packet_of_256_is_ill_formed :
    (Instr.dataPacket (List.replicate 256 0)).wellFormed = false := by decide +kernel

/-! ### Words, bit by bit from the formats of R75 to R85 and R90 -/

theorem test_decode_host_operations :
    (List.map (fun v => (decode .hostOp [v]).toOption)
      [0b00000001#8, 0b00000010#8, 0b00000011#8, 0b00000100#8, 0b00010000#8, 0b00010001#8,
       0b00010010#8, 0b00010011#8, 0b00010100#8, 0b00100000#8, 0b00100001#8, 0b00100010#8]) =
      [some .start, some .upgrade, some .endFast, some .close, some .focus, some .shoot,
       some .readMem, some .writeMem, some .readMemoInfo, some .getRingAddrs, some .getMhAddrs,
       some .getMhSetting] := by decide

theorem test_decode_unassigned_op :
    (List.map (fun v => (decode .hostOp [v]).toOption)
      [0x00#8, 0x05#8, 0x0F#8, 0x15#8, 0x23#8, 0x80#8, 0xFF#8]) =
      List.replicate 7 none := by decide

theorem test_decode_wakeup : decode .toDevice [0b00000000] = .ok .wakeup := by decide

theorem test_decode_unit_inquiry :
    decode .toDevice [0b01010011, 0b00110001, 0b00110000, 0b00110000, 0b00110000, 0b00000101] =
      .ok .unitInquiry := by decide

theorem test_decode_focus :
    decode .toDevice [0b00000001, 0b00100000, 0b10000110, 0, 0, 0, 0, 0, 0b00000011] =
      .ok .cmdFocus := by decide

theorem test_decode_shoot :
    decode .toDevice [0b00000001, 0b00100000, 0b10000101, 0, 0, 0, 0, 0, 0b00000011] =
      .ok .cmdShoot := by decide

/-- V48 and V49: the high byte of the address comes first. -/
theorem test_decode_read_memory :
    decode .toDevice
        [0b00000001, 0b00100000, 0b10000000, 0b10100001, 0b11111101, 0b00000000, 0, 0b00000100, 0b00000011] =
      .ok (.readMemory 0xA1 0xFD00 4) := by decide

/-- V51. -/
theorem test_decode_write_to_memory :
    decode .toDevice
        [0b00000001, 0b00100000, 0b10000001, 0, 0b00010010, 0b00110100, 0, 0b00000001,
         0b00000010, 0b11111111, 0b00000000, 0b00000011] =
      .ok (.writeToMemory 0x1234 [0xFF]) := by decide

theorem test_decode_eot : decode .toDevice [0b00000100, 0b00000100] = .ok .eot := by decide

theorem test_decode_responses :
    decode .fromDevice [0b00000110, 0b00000000] = .ok .okResponse ∧
    decode .fromDevice [0b00000100, 0b00000100] = .ok .eotEcho ∧
    decode .fromDevice
        [0x31, 0x30, 0x32, 0x30, 0x46, 0x39, 0x30, 0x58, 0x2F, 0x4E, 0x39, 0x30, 0x53, 0x00, 0x03, 0x06] =
      .ok .unitIdResponse ∧
    decode .fromDevice [0b00000010, 0b00001100, 0b00001100, 0b00000011] =
      .ok (.dataPacket [0x0C]) := by decide

/-- R88: op codes and fixed bytes that are no command's are refused, not read as a neighbour. -/
theorem test_decode_refuses :
    decodeFixedCommand [0x01, 0x20, 0x82, 0, 0, 0, 0, 0, 0x03] = .error .unknownOpc ∧
    decodeFixedCommand [0x01, 0x20, 0x86, 0, 0, 1, 0, 0, 0x03] = .error .badFormat ∧
    decodeFixedCommand [0x01, 0x20, 0x80, 0, 0, 0, 1, 0, 0x03] = .error .badFormat ∧
    decodeFixedCommand [0x01, 0x20, 0x81, 0, 0xAA, 0xBB, 0, 3, 0x02, 0x0C, 0x0D, 0x0E, 0x28, 0x03] =
      .error .badFormat ∧
    decodeFixedCommand [0x02, 0x20, 0x80, 0, 0, 0, 0, 0, 0x03] = .error .notACommand := by decide

/-- The two open commands are sent as their parameter says (V55, V56). -/
theorem test_encode_open_commands :
    encode .baudUp = .ok Config.baudUpCmd.bytes ∧
    encode .readMemoHolderInfo = .ok Config.memoInfoCmd.bytes := ⟨rfl, rfl⟩

/-- R87, R122: the op code of a command of the family is its third byte. -/
theorem test_open_command_op_code :
    (OpenCommand.mk 0x01 [0x20, 0x86, 0x00]).opCode = some 0x86 ∧ (OpenCommand.mk 0x01 [0x20]).opCode = none ∧
    (OpenCommand.mk 0x05 [0x20, 0x86]).opCode = none := by decide

/-- The numbers of spec/opcode_table.json, the whole of each row. -/
theorem test_table_words_host :
    (List.map (decodeTableWord 8)
      [0x01, 0x02, 0x03, 0x04, 0x10, 0x11, 0x12, 0x13, 0x14, 0x20, 0x21, 0x22, 0x00]) =
      [some .start, some .upgrade, some .endFast, some .close, some .focus, some .shoot,
       some .readMem, some .writeMem, some .readMemoInfo, some .getRingAddrs, some .getMhAddrs,
       some .getMhSetting, some .wakeup] := by decide

theorem test_table_words_line :
    decodeTableWord 48 0x533130303005 = some .unitInquiry ∧
    decodeTableWord 72 0x012086000000000003 = some .cmdFocus ∧
    decodeTableWord 72 0x012085000000000003 = some .cmdShoot ∧
    decodeTableWord 72 0x012080A1B2C300D403 = some (.readMemory 0xA1 0xB2C3 0xD4) ∧
    decodeTableWord 64 0x01208100AABB0002 = some (.writeToMemory 0xAABB [0, 0]) ∧
    decodeTableWord 16 0x0404 = some .eot ∧
    decodeTableWord 16 0x0600 = some .okResponse ∧
    decodeTableWord 128 0x3130323046393058 = none ∧
    decodeTableWord 128 0x31303230463930582F4E393053000306 = some .unitIdResponse := by decide

/-! ### One table word, placed and run after reset -/

theorem test_place_start :
    look (fun t => t.seq) (step (State.reset.withFetchWord 8 0x01)) = some ⟨some .start, 1⟩ := by decide

theorem test_place_wakeup :
    look (fun t => (t.ss, t.trace)) (step (State.reset.withFetchWord 8 0x00)) =
      some (.awake, [.write [0x00] true]) := by decide

theorem test_place_read_memory :
    look (fun t => t.trace) (step (State.reset.withFetchWord 72 0x012080A1B2C300D403)) =
      some [.write [0x01, 0x20, 0x80, 0xA1, 0xB2, 0xC3, 0x00, 0xD4, 0x03] true] := by decide

theorem test_place_ok_response :
    look (fun t => (t.status, t.trace)) (step (State.reset.withFetchWord 16 0x0600)) =
      some (⟨false, true, false⟩, [.read 2 (some [0x06, 0x00])]) := by decide

/-! ### The codecs: the vectors of parts 1 and 2 -/

/-- V1 to V4, V9 to V12. -/
theorem test_checksums :
    checksum [] = 0x00 ∧ checksum [0xFF] = 0x00 ∧ checksum [0xFE] = 0xFE ∧ checksum [0xFE, 0x02] = 0x01 ∧
    checksum [0xC8, 0x64] = 0x2D ∧ checksum [0x80, 0x80, 0x80, 0x80] = 0x02 ∧
    checksum [0xAA, 0xAA, 0xAA, 0xAA, 0xAA] = 0x55 ∧ checksum [0xDE, 0xAD, 0xBE, 0xEF] = 0x3B := by decide

/-- V9, V10 and V8 on the datapath of R111. -/
theorem test_datapath :
    checksumDatapath [0xC8, 0x64] = 0x2D ∧ checksumDatapath [0x80, 0x80, 0x80, 0x80] = 0x02 ∧
    checksumDatapath [0x7F, 0x80] = 0x00 := by decide

/-- V20, V22, V23, V25. -/
theorem test_serialize :
    serialize [] = [0x02, 0x00, 0x03] ∧ serialize [0xFF] = [0x02, 0xFF, 0x00, 0x03] ∧
    serialize [0x02, 0x03] = [0x02, 0x02, 0x03, 0x05, 0x03] ∧
    serialize [0x0C, 0x0D, 0x0E] = [0x02, 0x0C, 0x0D, 0x0E, 0x27, 0x03] := by decide

/-- V26 and V27. -/
theorem test_deserialize_accepts :
    deserialize [0x02, 0x0C, 0x00, 0xFF, 0x0C, 0x03] = .ok [0x0C, 0x00, 0xFF] ∧
    deserialize [0x02, 0x0C, 0xFF, 0xFF, 0x0C, 0x03] = .ok [0x0C, 0xFF, 0xFF] ∧
    deserialize [0x02, 0x0C, 0x00, 0x00, 0x0C, 0x03] = .ok [0x0C, 0x00, 0x00] := by decide

/-- V28, V30, V32 to V36, V40. -/
theorem test_deserialize_rejects :
    deserialize [] = .error .tooShort ∧ deserialize [0x02, 0x00, 0x03] = .error .tooShort ∧
    deserialize [0x03, 0x00, 0x00, 0x02] = .error .badStart ∧
    deserialize [0x01, 0x0C, 0x0D, 0x04] = .error .badStart ∧
    deserialize [0x02, 0x0C, 0x0D, 0x04] = .error .badEnd ∧
    deserialize [0x02, 0x0C, 0x0D, 0x03] = .error .badChecksum ∧
    deserialize [0x02, 0xFF, 0xFF, 0x03] = .error .badChecksum ∧
    deserialize [0x02, 0x0C, 0x0D, 0x0E, 0x27, 0x03, 0x00] = .error .badEnd := by decide

/-- S4, S5, V47, V50, V53. -/
theorem test_encode :
    encode (.readMemory 0xA1 0xB2C3 0xD4) = .ok [0x01, 0x20, 0x80, 0xA1, 0xB2, 0xC3, 0x00, 0xD4, 0x03] ∧
    encode (.readMemory 0xFF 0xFFFF 0xFF) = .ok [0x01, 0x20, 0x80, 0xFF, 0xFF, 0xFF, 0x00, 0xFF, 0x03] ∧
    encode (.writeToMemory 0xAABB [0x0C, 0x0D, 0x0E]) =
      .ok [0x01, 0x20, 0x81, 0x00, 0xAA, 0xBB, 0x00, 0x03, 0x02, 0x0C, 0x0D, 0x0E, 0x27, 0x03] ∧
    encode (.writeToMemory 0x1234 []) =
      .ok [0x01, 0x20, 0x81, 0x00, 0x12, 0x34, 0x00, 0x00, 0x02, 0x00, 0x03] ∧
    encode (.writeToMemory 0 (List.replicate 256 0)) = .error .encodingError := by decide +kernel

/-- V69 to V71. -/
theorem test_read_u16_le :
    readU16le [0x34, 0x12] 0 = .ok 0x1234 ∧ readU16le [0x34, 0x12] 1 = .error .rangeError ∧
    readU16le [] 0 = .error .rangeError ∧ readU16le [0x00, 0x11, 0x22, 0x33] 1 = .ok 0x2211 := by decide

/-- S7, V72. -/
theorem test_bcd :
    readBcd4 0x3162 = .ok 3162 ∧ readBcd4 0x101A = .error .bcdError ∧ readBcd4 0x0010 = .ok 10 ∧
    readBcd4 0x9999 = .ok 9999 ∧ readBcd4 0x0909 = .ok 909 ∧ readBcd4 0xA000 = .error .bcdError := by decide

/-- S8, V78. -/
theorem test_setting :
    decodeSetting 0x05 = .ok .doNotStore ∧ decodeSetting 0xBF = .ok .doNotStore ∧
    decodeSetting 0x45 = .ok .minimum ∧ decodeSetting 0x4E = .ok .intermediate ∧
    decodeSetting 0x5F = .ok .full ∧ decodeSetting 0x41 = .error .settingError ∧
    decodeSetting 0xC5 = .error .settingError := by decide

/-- V73 to V77. -/
theorem test_decoders :
    decodeRing [0x00, 0x40, 0xFF, 0x7F] = .ok (0x4000, 0x7FFF) ∧
    decodeMhAddrs [0x10, 0x42, 0x00, 0x40, 0x80, 0x41] = .ok (0x4210, 0x4000, 0x4180) ∧
    decodeMemoInfo [0x62, 0x31, 0x2C, 0x01] = .ok (3162, 300) ∧
    decodeMemoInfo [0x1A, 0x10, 0x2C, 0x01] = .error .bcdError ∧
    decodeMemoInfo [0x99, 0x99, 0xFF, 0xFF] = .ok (9999, 65535) := by decide

/-! ### Acceptance: V79 to V90 -/

theorem test_V79 : look outcome (writing 0x10 (ready .idle [])) =
    some (.idle, ⟨false, true, true⟩, 8, 0, 0) := by decide

theorem test_V80 : look outcome (writing 0x00 (ready .idle [])) =
    some (.idle, ⟨false, true, true⟩, 9, 0, 0) := by decide

theorem test_V82 : look outcome (writing 0x13 { ready .idle [] with vlen := 300 }) =
    some (.idle, ⟨false, true, true⟩, 8, 0, 0) := by decide

theorem test_V83 : look outcome (writing 0x13 { ready .identified [] with vlen := 256 }) =
    some (.identified, ⟨false, true, true⟩, 4, 0, 0) := by decide

theorem test_V84 : look outcome (writing 0x01 (ready .identified [])) =
    some (.identified, ⟨false, true, true⟩, 8, 0, 0) := by decide

theorem test_V85 : look outcome (writing 0x03 (ready .identified [])) =
    some (.identified, ⟨false, true, true⟩, 8, 0, 0) := by decide

theorem test_V86 : look outcome (writing 0x04 (ready .fastMode [])) =
    some (.fastMode, ⟨false, true, true⟩, 8, 0, 0) := by decide

theorem test_V87 : look outcome (writing 0x02 (ready .fastMode [])) =
    some (.fastMode, ⟨false, true, true⟩, 8, 0, 0) := by decide

theorem test_V88 : look outcome (writing 0x01 (ready .closed [])) =
    some (.closed, ⟨false, true, true⟩, 8, 0, 0) := by decide

theorem test_V90 : look outcome (writing 0x10 (busyAt .start 2 .awake .default [])) =
    some (.awake, ⟨true, false, false⟩, 0, 0, 0) := by decide

/-! ### One step of an operation: V91 to V115 -/

/-- V91: the wake-up write fails. -/
theorem test_V91 :
    look (fun t => (outcome t, t.trace)) (step (busyAt .start 1 .idle .default [.err])) =
      some ((.desync, ⟨false, true, true⟩, 1, 0, 1), [.write [0x00] false]) := by decide

/-- V92: the clear fails. -/
theorem test_V92 :
    look (fun t => (outcome t, t.trace)) (step (busyAt .start 3 .awake .default [.err])) =
      some ((.desync, ⟨false, true, true⟩, 1, 0, 3), [.clear false]) := by decide

/-- V94: the identification's last byte is wrong. -/
theorem test_V94 :
    look outcome (step (busyAt .start 5 .awake .default
        [.ok [0x31, 0x30, 0x32, 0x30, 0x46, 0x39, 0x30, 0x58, 0x2F, 0x4E, 0x39, 0x30, 0x53, 0x00, 0x03, 0x15]])) =
      some (.desync, ⟨false, true, true⟩, 3, 2, 5) := by decide

/-- V96: the speed change fails. -/
theorem test_V96 :
    look (fun t => (outcome t, t.trace)) (step (busyAt .upgrade 4 .identified .default [.err])) =
      some ((.desync, ⟨false, true, true⟩, 1, 0, 4), [.setBaud 9600 false]) := by decide

/-- V97: a wrong echo; the speed is not restored. -/
theorem test_V97 :
    look (fun t => (outcome t, t.baud)) (step (busyAt .endFast 2 .fastMode .fast [.ok [0x04, 0x00]])) =
      some ((.desync, ⟨false, true, true⟩, 3, 3, 2), .fast) := by decide

/-- V98: back to 1200 baud. -/
theorem test_V98 :
    look (fun t => (t.baud, t.trace)) (step (busyAt .endFast 4 .fastMode .fast [.ok []])) =
      some (.default, [.setBaud 1200 true]) := by decide

/-- V99. -/
theorem test_V99 :
    look outcome (step (busyAt .close 1 .identified .default [])) =
      some (.closed, ⟨false, true, false⟩, 0, 0, 0) := by decide

/-- V101: the acknowledgement's bytes the wrong way round. -/
theorem test_V101 :
    look outcome (step (busyAt .shoot 2 .identified .default [.ok [0x00, 0x06]])) =
      some (.desync, ⟨false, true, true⟩, 3, 1, 2) := by decide

/-- R61: one byte where two were asked for is a timeout. -/
theorem test_short_acknowledgement :
    look (fun t => (outcome t, t.trace)) (step (busyAt .focus 2 .identified .default [.ok [0x06]])) =
      some ((.desync, ⟨false, true, true⟩, 1, 0, 2), [.read 2 none]) := by decide

/-- V102. -/
theorem test_V102 :
    look (fun t => (t.rlen, t.rbuf.toList.take 3, t.status))
        (step { busyAt .readMem 2 .identified .default [.ok [0x02, 0x0C, 0x0D, 0x0E, 0x27, 0x03]] with aLen := 3 }) =
      some (3, [0x0C, 0x0D, 0x0E], ⟨false, true, false⟩) := by decide

/-- V103: a read of nothing. -/
theorem test_V103 :
    look outcome (step (busyAt .readMem 2 .identified .default [.ok [0x02, 0x00, 0x03]])) =
      some (.desync, ⟨false, true, true⟩, 2, 1, 2) := by decide

/-- V104: a wrong checksum. -/
theorem test_V104 :
    look outcome
        (step { busyAt .readMem 2 .identified .default [.ok [0x02, 0xFF, 0xFF, 0x03]] with aLen := 1 }) =
      some (.desync, ⟨false, true, true⟩, 2, 4, 2) := by decide

/-- V107: header and packet in one write. -/
theorem test_V107 :
    look (fun t => (t.seq, t.trace))
        (step { busyAt .writeMem 1 .identified .default [.ok []] with
                aAddr := 0xAABB, vlen := 3, pbuf := Buf.ofFn fun i => [0x0C, 0x0D, 0x0E].getD i 0x77 }) =
      some (⟨some .writeMem, 2⟩,
        [.write [0x01, 0x20, 0x81, 0x00, 0xAA, 0xBB, 0x00, 0x03, 0x02, 0x0C, 0x0D, 0x0E, 0x27, 0x03] true]) := by
  decide

/-- A block at a decode step, with the payload `p` received. -/
def decoding (op : HostOp) (p : List Byte) : State :=
  { busyAt op 3 .identified .default [] with
    rbuf := Buf.ofFn fun i => p.getD i 0x77, rlen := BitVec.ofNat 8 p.length
    rollId := 7, bytesToRead := 7, mhSetting := 1, mhBpf := 2 }

/-- V109. -/
theorem test_V109 :
    look (fun t => (t.rollId, t.bytesToRead, t.status)) (step (decoding .readMemoInfo [0x62, 0x31, 0x2C, 0x01])) =
      some (3162, 300, ⟨false, true, false⟩) := by decide

/-- V110: the result registers keep their old values. -/
theorem test_V110 :
    look (fun t => (outcome t, t.rollId, t.bytesToRead))
        (step (decoding .readMemoInfo [0x1A, 0x10, 0x2C, 0x01])) =
      some ((.desync, ⟨false, true, true⟩, 6, 0, 3), 7, 7) := by decide

/-- V111. -/
theorem test_V111 :
    look (fun t => (t.ringStart, t.ringEnd)) (step (decoding .getRingAddrs [0x00, 0x40, 0xFF, 0x7F])) =
      some (0x4000, 0x7FFF) := by decide

/-- V112. -/
theorem test_V112 :
    look (fun t => (t.mhCurrent, t.mhStart, t.mhRollStart))
        (step (decoding .getMhAddrs [0x10, 0x42, 0x00, 0x40, 0x80, 0x41])) =
      some (0x4210, 0x4000, 0x4180) := by decide

/-- V113. -/
theorem test_V113 :
    look (fun t => (t.mhSetting, t.mhBpf)) (step (decoding .getMhSetting [0x5F])) = some (3, 6) := by decide

/-- V115. -/
theorem test_V115 :
    look (fun t => (outcome t, t.mhSetting, t.mhBpf)) (step (decoding .getMhSetting [0x41])) =
      some ((.desync, ⟨false, true, true⟩, 7, 0, 3), 1, 2) := by decide

/-! ### The host's port (R22, R27, R68, R220) -/

/-- R27: `DONE` and `ERR` are bits 1 and 2. -/
theorem test_status_bits :
    look (fun t => t.readLog)
        (step { ready .desync [] with status := ⟨false, true, true⟩, turns := [.host (.read .status)] }) =
      some [⟨.status, 6⟩] := by decide

/-- R22: an operand write while the block is busy is ignored, otherwise taken. -/
theorem test_operand_write :
    look (fun t => t.aAddr) (step { ready .idle [] with turns := [.host (.write .aAddr 0xB2C3)] }) =
      some 0xB2C3 ∧
    look (fun t => t.aAddr)
        (step { busyAt .focus 1 .identified .default [] with turns := [.host (.write .aAddr 0xB2C3)] }) =
      some 0 := by decide

/-- R220: reset in the middle of an operation. -/
theorem test_reset_while_busy :
    look outcome (step { busyAt .upgrade 4 .identified .default [] with turns := [.host .reset] }) =
      some (.idle, ⟨false, false, false⟩, 0, 0, 0) := by decide

/-- R96: the calls of the fast form of `read`. -/
theorem test_expand_fast_read :
    (Subcommand.expand (.read 0xB2C3 3 0xA1 true)).map HostCall.actions =
      [[.write .op 0x01], [.write .op 0x02],
       [.write .aSpace 0xA1, .write .aAddr 0xB2C3, .write .aLen 3, .write .op 0x12],
       [.write .op 0x03], [.write .op 0x04]] := by decide

/-! ### Witnesses: the hypotheses of each obligation are met -/

theorem witness_WellFormedDecodesBack :
    ∃ i : Instr, i = .writeToMemory 0xFFFF (List.replicate 255 0xFF) ∧ i.wellFormed = true ∧
      (i = .baudUp → ∀ j, decodeFixedCommand Config.baudUpCmd.bytes ≠ .ok j) ∧
      (i = .readMemoHolderInfo →
        Config.memoInfoCmd.bytes ∉ [[0x00], [0x53, 0x31, 0x30, 0x30, 0x30, 0x05], [0x04, 0x04]] ∧
        Config.memoInfoCmd.bytes ≠ Config.baudUpCmd.bytes) :=
  ⟨_, rfl, by decide +kernel, nofun, nofun⟩

theorem witness_DecodedBytesAreTheEncoding :
    ∃ p bs i, decode p bs = .ok i := ⟨.toDevice, [0x04, 0x04], .eot, by decide⟩

/-- The shortest and the nine-byte command. -/
theorem witness_CommandLengthFromItsBytes :
    (∃ bs, Instr.port (.writeToMemory 0 []) = .toDevice ∧ encode (.writeToMemory 0 []) = .ok bs) ∧
    (∃ bs, Instr.port .wakeup = .toDevice ∧ encode .wakeup = .ok bs) ∧
    (∃ bs, Instr.port .cmdShoot = .toDevice ∧ encode .cmdShoot = .ok bs) :=
  ⟨⟨_, rfl, rfl⟩, ⟨_, rfl, rfl⟩, ⟨_, rfl, rfl⟩⟩

theorem encodes_short_write (v : List Byte) (h : v.length ≤ 255) : ∃ bs, encode (.writeToMemory 0 v) = .ok bs :=
  ⟨_, if_neg (Nat.not_lt.mpr h)⟩

theorem witness_EncodedCommandLengths :
    (∃ bs, encode .wakeup = .ok bs) ∧ (∃ bs, encode .unitInquiry = .ok bs) ∧ (∃ bs, encode .eot = .ok bs) ∧
    (∃ bs, encode .baudUp = .ok bs) ∧ (∃ bs, encode .readMemoHolderInfo = .ok bs) ∧
    (∃ bs, encode (.readMemory 0xFF 0xFFFF 0xFF) = .ok bs) ∧
    (∃ bs, encode (.writeToMemory 0 []) = .ok bs) ∧
    (∃ bs, encode (.writeToMemory 0 (List.replicate 255 0)) = .ok bs) :=
  ⟨⟨_, rfl⟩, ⟨_, rfl⟩, ⟨_, rfl⟩, ⟨_, rfl⟩, ⟨_, rfl⟩, ⟨_, rfl⟩, ⟨_, rfl⟩, encodes_short_write _ (List.length_replicate ..).le⟩

theorem witness_CommandsHaveDifferentBytes :
    ∃ i j bs, Instr.port i = .toDevice ∧ Instr.port j = .toDevice ∧ i ≠ .baudUp ∧ i ≠ .readMemoHolderInfo ∧
      j ≠ .baudUp ∧ j ≠ .readMemoHolderInfo ∧ encode i = .ok bs ∧ encode j = .ok bs :=
  ⟨.readMemory 0 0 0, .readMemory 0 0 0, _, rfl, rfl, nofun, nofun, nofun, nofun, rfl, rfl⟩

/-- The lengths where the two clauses meet. -/
theorem witness_CommandBytes :
    (List.replicate 255 (0 : Byte)).length ≤ 255 ∧ 255 < (List.replicate 256 (0 : Byte)).length :=
  ⟨(List.length_replicate ..).le, (List.length_replicate ..).symm ▸ by decide⟩

theorem witness_ChecksumIsNeverFF :
    ∃ f : List Byte, f[f.length - 2]? = some 0xFF := ⟨[0x02, 0xFF, 0xFF, 0x03], by decide⟩

theorem witness_FrameChecksInOrder :
    ∃ f p, deserialize f = .ok p := ⟨[0x02, 0x00, 0x00, 0x03], [0x00], by decide⟩

theorem witness_NonemptyPayloadRoundTrips :
    1 ≤ ([0xFF] : List Byte).length ∧ ([0x02, 0x00, 0x03] : List Byte).length < 4 := by decide

/-- V26: the four positions, and a payload byte inside and outside the blind spot. -/
theorem witness_OneChangedByte :
    ∃ p : List Byte, p = [0x0C, 0x00, 0xFF] ∧ 1 ≤ p.length ∧
      ((serialize p)[0]? = some 0x02 ∧ (0x03 : Byte) ≠ 0x02) ∧
      ((serialize p)[p.length + 2]? = some 0x03 ∧ (0x02 : Byte) ≠ 0x03) ∧
      ((serialize p)[p.length + 1]? = some 0x0C ∧ (0xFF : Byte) ≠ 0x0C) ∧
      ((serialize p)[1]? = some 0x0C ∧ (0x0D : Byte) ≠ 0x0C) ∧
      ((serialize p)[2]? = some 0x00 ∧ (0xFF : Byte) ≠ 0x00) ∧
      ((serialize p)[p.length]? = some 0xFF ∧ (0x00 : Byte) ≠ 0xFF) := ⟨_, rfl, by decide⟩

theorem witness_LittleEndianWord :
    ∃ b : List Byte, b[0]? = some 0x34 ∧ b[0 + 1]? = some 0x12 ∧ b.length ≤ 1 + 1 := ⟨[0x34, 0x12], by decide⟩

/-- The largest good word, and a word whose only bad digit is 10. -/
theorem witness_BcdWord :
    (∀ k : Fin 4, (0x9999 : Half).toNat / 16 ^ k.val % 16 ≤ 9) ∧
    ¬(∀ k : Fin 4, (0x000A : Half).toNat / 16 ^ k.val % 16 ≤ 9) := by decide

/-- An `OP` write in each of the procedure's cases: while busy, an illegal value, a state that does not
accept the operation, `VLEN` = 256, and a start with `VLEN` = 255. -/
theorem witness_WritingOpFollowsTheProcedure :
    (∃ s : State, s.turns = .host (.write .op 0x10) :: [] ∧ s.status.busy = true) ∧
    (∃ s : State, s.turns = .host (.write .op 0x0F) :: [] ∧ s.status.busy = false ∧
      operationOf ((0x0F : Half).toNat % 256) = none) ∧
    (∃ s : State, s.turns = .host (.write .op 0x13) :: [] ∧ s.status.busy = false ∧
      operationOf ((0x13 : Half).toNat % 256) = some .writeMem ∧ s.ss ∉ acceptedStates .writeMem) ∧
    (∃ s : State, s.turns = .host (.write .op 0x13) :: [] ∧ s.status.busy = false ∧
      s.ss ∈ acceptedStates .writeMem ∧ s.vlen.toNat = 256) ∧
    (∃ s : State, s.turns = .host (.write .op 0x13) :: [] ∧ s.status.busy = false ∧
      s.ss ∈ acceptedStates .writeMem ∧ s.vlen.toNat = 255) :=
  ⟨⟨{ busyAt .focus 1 .identified .default [] with turns := [.host (.write .op 0x10)] }, rfl, rfl⟩,
    ⟨{ ready .identified [] with turns := [.host (.write .op 0x0F)] }, rfl, rfl, by decide⟩,
    ⟨{ ready .desync [] with turns := [.host (.write .op 0x13)] }, rfl, rfl, by decide, by decide⟩,
    ⟨{ ready .fastMode [] with turns := [.host (.write .op 0x13)], vlen := 256 }, rfl, rfl, by decide, rfl⟩,
    ⟨{ ready .identified [] with turns := [.host (.write .op 0x13)], vlen := 255 }, rfl, rfl, by decide, rfl⟩⟩

/-- Every operation has a state that accepts it and a state that does not. -/
theorem witness_OperationsStartInTheirStates :
    ∀ op : HostOp, ∃ x y : SessionState, (ready x []).status.busy = false ∧ (ready x []).ss ∈ acceptedStates op ∧
      (ready x []).vlen.toNat ≤ 255 ∧ (ready y []).status.busy = false ∧ (ready y []).ss ∉ acceptedStates op
  | .start => ⟨.idle, .desync, by decide⟩
  | .upgrade => ⟨.identified, .fastMode, by decide⟩
  | .endFast => ⟨.fastMode, .identified, by decide⟩
  | .close => ⟨.identified, .fastMode, by decide⟩
  | .focus => ⟨.fastMode, .idle, by decide⟩
  | .shoot => ⟨.fastMode, .idle, by decide⟩
  | .readMem => ⟨.fastMode, .closed, by decide⟩
  | .writeMem => ⟨.fastMode, .closed, by decide⟩
  | .readMemoInfo => ⟨.identified, .awake, by decide⟩
  | .getRingAddrs => ⟨.identified, .awake, by decide⟩
  | .getMhAddrs => ⟨.identified, .desync, by decide⟩
  | .getMhSetting => ⟨.identified, .desync, by decide⟩

/-- An idle block in any session state, whatever the transport is about to answer: the state of the
whole-operation witnesses. -/
theorem free_ready (x : SessionState) (as : List Answer) :
    free (ready x as) ∧ (ready x as).ss = x ∧ (ready x as).answers = as := ⟨⟨rfl, rfl⟩, rfl, rfl⟩

/-- The identification with its last byte changed (V94). -/
def badId : List Byte :=
  [0x31, 0x30, 0x32, 0x30, 0x46, 0x39, 0x30, 0x58, 0x2F, 0x4E, 0x39, 0x30, 0x53, 0x00, 0x03, 0x15]

theorem witness_StartRunsTheHandshake :
    (∀ as ∈ ([[.err], [.ok [], .err], [.ok [], .ok [], .err], [.ok [], .ok [], .ok [], .err],
        [.ok [], .ok [], .ok [], .ok badId], [.ok [], .ok [], .ok [], .ok Config.UNIT_ID_RESP]] : List (List Answer)),
      free (ready .idle as) ∧ (ready .idle as).ss = .idle ∧ (ready .idle as).answers = as) ∧
    badId.length = 16 ∧ badId ≠ Config.UNIT_ID_RESP ∧ Config.UNIT_ID_RESP.length = 16 :=
  ⟨fun as _ => free_ready .idle as, by decide⟩

theorem witness_UpgradeRunsToFastMode :
    (∀ as ∈ ([[.err], [.ok [], .err], [.ok [], .ok [0x06, 0x01]], [.ok [], .ok [0x06, 0x00], .err],
        [.ok [], .ok [0x06, 0x00], .ok []]] : List (List Answer)),
      free (ready .identified as) ∧ (ready .identified as).ss = .identified ∧ (ready .identified as).answers = as) ∧
    ([0x06, 0x01] : List Byte).length = 2 ∧ ([0x06, 0x01] : List Byte) ≠ [0x06, 0x00] :=
  ⟨fun as _ => free_ready .identified as, by decide⟩

theorem witness_EndFastRunsBackToIdentified :
    (∀ as ∈ ([[.err], [.ok [], .err], [.ok [], .ok [0x04, 0x00]], [.ok [], .ok [0x04, 0x04], .err],
        [.ok [], .ok [0x04, 0x04], .ok []]] : List (List Answer)),
      free (ready .fastMode as) ∧ (ready .fastMode as).ss = .fastMode ∧ (ready .fastMode as).answers = as) ∧
    ([0x04, 0x00] : List Byte).length = 2 ∧ ([0x04, 0x00] : List Byte) ≠ [0x04, 0x04] :=
  ⟨fun as _ => free_ready .fastMode as, by decide⟩

theorem witness_CloseEndsTheSession :
    (free (ready .identified []) ∧ (ready .identified []).ss = .identified) ∧
    (free (ready .fastMode []) ∧ (ready .fastMode []).ss = .fastMode) := ⟨⟨⟨rfl, rfl⟩, rfl⟩, ⟨⟨rfl, rfl⟩, rfl⟩⟩

/-- In both states that accept ordinary operations, an idle block with these answers. -/
def meetsOrdinary (as : List Answer) : Prop :=
  (free (ready .identified as) ∧ ordinary (ready .identified as) ∧ (ready .identified as).answers = as) ∧
  (free (ready .fastMode as) ∧ ordinary (ready .fastMode as) ∧ (ready .fastMode as).answers = as)

theorem meetsOrdinary_any (as : List Answer) : meetsOrdinary as :=
  ⟨⟨⟨rfl, rfl⟩, .inl rfl, rfl⟩, ⟨⟨rfl, rfl⟩, .inr rfl, rfl⟩⟩

theorem witness_FocusAndShootExchange :
    (∀ as ∈ ([[.err], [.ok [], .err], [.ok [], .ok [0x00, 0x06]], [.ok [], .ok [0x06, 0x00]]] : List (List Answer)),
      meetsOrdinary as) ∧
    ([0x00, 0x06] : List Byte).length = 2 ∧ ([0x00, 0x06] : List Byte) ≠ [0x06, 0x00] ∧
    ((Instr.focus = .focus ∧ (0x86 : Byte) = 0x86) ∧ (Instr.shoot = .shoot ∧ (0x85 : Byte) = 0x85)) :=
  ⟨fun as _ => meetsOrdinary_any as, by decide⟩

/-- `A_LEN` = 1: V104, V105. -/
theorem witness_ReadMemExchange :
    ∃ g : List Answer → State, (∀ as ∈ ([[.err], [.ok [], .err], [.ok [], .ok [0x02, 0xFF, 0xFF, 0x03]],
        [.ok [], .ok [0x02, 0xFF, 0x00, 0x03]]] : List (List Answer)),
      free (g as) ∧ ordinary (g as) ∧ (g as).answers = as ∧ (g as).aLen = 1) ∧
    deserialize [0x02, 0xFF, 0xFF, 0x03] = .error .badChecksum ∧ deserialize [0x02, 0xFF, 0x00, 0x03] = .ok [0xFF] :=
  ⟨fun as => { ready .identified as with aLen := 1 }, fun _ _ => ⟨⟨rfl, rfl⟩, .inl rfl, rfl, rfl⟩, by decide⟩

/-- The longest payload: V68. -/
theorem witness_ReadMemExchange_longest :
    ∃ s : State, free s ∧ ordinary s ∧ s.aLen.toNat = 255 ∧
      s.answers = [.ok [], .ok (serialize (List.replicate 255 0xFF))] ∧
      (serialize (List.replicate 255 0xFF)).length = s.aLen.toNat + 3 :=
  ⟨{ ready .fastMode [.ok [], .ok (serialize (List.replicate 255 0xFF))] with aLen := 255 },
    ⟨rfl, rfl⟩, .inr rfl, rfl, rfl, by decide +kernel⟩

theorem witness_ReadOfNothingNeverSucceeds :
    ∃ s : State, free s ∧ ordinary s ∧ s.aLen = 0 ∧ s.answers = [.ok [], .ok [0x02, 0x00, 0x03]] :=
  ⟨ready .identified [.ok [], .ok [0x02, 0x00, 0x03]], ⟨rfl, rfl⟩, .inl rfl, rfl, rfl⟩

/-- `VLEN` = 255 and 256, where the two clauses meet. -/
theorem witness_WriteMemExchange :
    ∃ g : List Answer → State, (∀ as ∈ ([[.err], [.ok [], .err], [.ok [], .ok [0x15, 0x00]],
        [.ok [], .ok [0x06, 0x00]]] : List (List Answer)),
      free (g as) ∧ ordinary (g as) ∧ (g as).answers = as ∧ (g as).vlen.toNat = 255) ∧
    ∃ s : State, free s ∧ ordinary s ∧ s.vlen.toNat = 256 :=
  ⟨fun as => { ready .identified as with vlen := 255 }, fun _ _ => ⟨⟨rfl, rfl⟩, .inl rfl, rfl, rfl⟩,
    { ready .fastMode [] with vlen := 256 }, ⟨rfl, rfl⟩, .inr rfl, rfl⟩

/-- V109 and V110. -/
theorem witness_ReadMemoInfoExchange :
    (∀ as ∈ ([[.err], [.ok [], .err], [.ok [], .ok [0x02, 0x62, 0x31, 0x2C, 0x01, 0xC0, 0x04]],
        [.ok [], .ok [0x02, 0x62, 0x31, 0x2C, 0x01, 0xC0, 0x03]],
        [.ok [], .ok [0x02, 0x1A, 0x10, 0x2C, 0x01, 0x57, 0x03]]] : List (List Answer)), meetsOrdinary as) ∧
    deserialize [0x02, 0x62, 0x31, 0x2C, 0x01, 0xC0, 0x04] = .error .badEnd ∧
    deserialize [0x02, 0x62, 0x31, 0x2C, 0x01, 0xC0, 0x03] = .ok [0x62, 0x31, 0x2C, 0x01] ∧
    deserialize [0x02, 0x1A, 0x10, 0x2C, 0x01, 0x57, 0x03] = .ok [0x1A, 0x10, 0x2C, 0x01] :=
  ⟨fun as _ => meetsOrdinary_any as, by decide⟩

/-- V111. -/
theorem witness_GetRingAddrsExchange :
    (∀ as ∈ ([[.err], [.ok [], .err], [.ok [], .ok [0x01, 0x00, 0x40, 0xFF, 0x7F, 0xBF, 0x03]],
        [.ok [], .ok [0x02, 0x00, 0x40, 0xFF, 0x7F, 0xBF, 0x03]]] : List (List Answer)), meetsOrdinary as) ∧
    deserialize [0x01, 0x00, 0x40, 0xFF, 0x7F, 0xBF, 0x03] = .error .badStart ∧
    deserialize [0x02, 0x00, 0x40, 0xFF, 0x7F, 0xBF, 0x03] = .ok [0x00, 0x40, 0xFF, 0x7F] :=
  ⟨fun as _ => meetsOrdinary_any as, by decide⟩

/-- V112. -/
theorem witness_GetMhAddrsExchange :
    (∀ as ∈ ([[.err], [.ok [], .err], [.ok [], .ok [0x02, 0x10, 0x42, 0x00, 0x40, 0x80, 0x41, 0xFF, 0x03]],
        [.ok [], .ok [0x02, 0x10, 0x42, 0x00, 0x40, 0x80, 0x41, 0x54, 0x03]]] : List (List Answer)),
      meetsOrdinary as) ∧
    deserialize [0x02, 0x10, 0x42, 0x00, 0x40, 0x80, 0x41, 0xFF, 0x03] = .error .badChecksum ∧
    deserialize [0x02, 0x10, 0x42, 0x00, 0x40, 0x80, 0x41, 0x54, 0x03] = .ok [0x10, 0x42, 0x00, 0x40, 0x80, 0x41] :=
  ⟨fun as _ => meetsOrdinary_any as, by decide⟩

/-- V113 to V115: a setting of each kind. -/
theorem witness_GetMhSettingExchange :
    (∀ as ∈ ([[.err], [.ok [], .err], [.ok [], .ok [0x02, 0x5F, 0x5F, 0x04]], [.ok [], .ok [0x02, 0x5F, 0x5F, 0x03]],
        [.ok [], .ok [0x02, 0x45, 0x45, 0x03]], [.ok [], .ok [0x02, 0x4E, 0x4E, 0x03]],
        [.ok [], .ok [0x02, 0x05, 0x05, 0x03]], [.ok [], .ok [0x02, 0x41, 0x41, 0x03]]] : List (List Answer)),
      meetsOrdinary as) ∧
    deserialize [0x02, 0x5F, 0x5F, 0x04] = .error .badEnd ∧
    (∀ x ∈ ([0x5F, 0x45, 0x4E, 0x05, 0x41] : List Byte), deserialize [0x02, x, x, 0x03] = .ok [x]) ∧
    (0x05 : Byte).getLsbD 6 = false ∧
    ((0x41 : Byte).getLsbD 6 = true ∧ (0x41 : Byte) ≠ 0x45 ∧ (0x41 : Byte) ≠ 0x4E ∧ (0x41 : Byte) ≠ 0x5F) :=
  ⟨fun as _ => meetsOrdinary_any as, by decide⟩

/-- Every wire command has a step that sends it. -/
theorem witness_WireCommandIsOneWrite :
    ∀ i ∈ ([.wakeup, .unitInquiry, .cmdFocus, .cmdShoot, .readMemory 0xA1 0xB2C3 0xD4, .writeToMemory 0xAABB [0x0C],
        .eot, .baudUp, .readMemoHolderInfo] : List Instr),
      ∃ (op : HostOp) (k : Nat) (s : State) (bs : List Byte), (op, k) ∈ sentAt i ∧ s.status.busy = true ∧
        s.seq = ⟨some op, k⟩ ∧ encode i = .ok bs ∧ s.answers = .ok [] :: [] := by
  have h : ∀ (i : Instr) (op : HostOp) (k : Nat) (bs : List Byte), (op, k) ∈ sentAt i → encode i = .ok bs →
      ∃ (op : HostOp) (k : Nat) (s : State) (bs : List Byte), (op, k) ∈ sentAt i ∧ s.status.busy = true ∧
        s.seq = ⟨some op, k⟩ ∧ encode i = .ok bs ∧ s.answers = .ok [] :: [] :=
    fun i op k bs hs he => ⟨op, k, busyAt op k .identified .default [.ok []], bs, hs, rfl, rfl, he, rfl⟩
  simp only [List.forall_mem_cons]
  exact ⟨h _ .start 1 _ (by decide) rfl, h _ .start 4 _ (by decide) rfl, h _ .focus 1 _ (by decide) rfl,
    h _ .shoot 1 _ (by decide) rfl, h _ .readMem 1 _ (by decide) rfl, h _ .writeMem 1 _ (by decide) rfl,
    h _ .endFast 1 _ (by decide) rfl, h _ .upgrade 1 _ (by decide) rfl, h _ .readMemoInfo 1 _ (by decide) rfl,
    nofun⟩

theorem witness_WireCommandWriteFails :
    (∃ (s : State) (bs : List Byte), (HostOp.focus, 1) ∈ sentAt .cmdFocus ∧ s.status.busy = true ∧
      s.seq = ⟨some .focus, 1⟩ ∧ encode .cmdFocus = .ok bs ∧ s.answers = .err :: []) ∧
    (∃ (s : State) (v : List Byte), (HostOp.writeMem, 1) ∈ sentAt (.writeToMemory 0 v) ∧ s.status.busy = true ∧
      s.seq = ⟨some .writeMem, 1⟩ ∧ encode (.writeToMemory 0 v) = .error .encodingError) :=
  ⟨⟨busyAt .focus 1 .identified .default [.err], _, by decide, rfl, rfl, rfl, rfl⟩,
    ⟨busyAt .writeMem 1 .identified .default [], List.replicate 256 0, by simp [sentAt], rfl, rfl, by decide +kernel⟩⟩

theorem witness_WireCommandElsewhereSendsNothing :
    (Instr.port .eot = .toDevice ∧ (ready .fastMode []).status.busy = false) ∧
    (Instr.port .eot = .toDevice ∧
      ∀ op k, (op, k) ∈ sentAt .eot → (busyAt .endFast 2 .fastMode .fast []).seq ≠ ⟨some op, k⟩) := by
  refine ⟨⟨rfl, rfl⟩, rfl, fun op k h => ?_⟩
  simp only [sentAt, List.mem_singleton, Prod.mk.injEq] at h
  obtain ⟨rfl, rfl⟩ := h
  decide

/-- Each of the six steps that expect a fixed response. -/
theorem witness_FixedResponseAccepted :
    ∀ w ∈ [(HostOp.start, 5), (.upgrade, 2), (.endFast, 2), (.focus, 2), (.shoot, 2), (.writeMem, 2)],
      ∃ s : State, s.status.busy = true ∧ s.seq = ⟨some w.1, w.2⟩ :=
  fun w _ => ⟨busyAt w.1 w.2 .identified .default [], rfl, rfl⟩

/-- Each of the five steps that read a packet, the longest payload among them. -/
theorem witness_DataPacketAccepted :
    (∀ w ∈ [(HostOp.readMemoInfo, 4), (.getRingAddrs, 4), (.getMhAddrs, 6), (.getMhSetting, 1)],
      ∃ (s : State) (p : List Byte), s.status.busy = true ∧ s.seq = ⟨some w.1, 2⟩ ∧ p.length = w.2 ∧ 1 ≤ w.2) ∧
    (∃ (s : State) (p : List Byte), s.status.busy = true ∧ s.seq = ⟨some .readMem, 2⟩ ∧ s.aLen.toNat = 255 ∧
      p.length = s.aLen.toNat) := by
  refine ⟨?_, ⟨{ busyAt .readMem 2 .identified .default [] with aLen := 255 }, List.replicate 255 0, rfl, rfl, rfl,
    List.length_replicate ..⟩⟩
  simp only [List.forall_mem_cons]
  exact ⟨⟨busyAt .readMemoInfo 2 .identified .default [], [0, 0, 0, 0], by decide⟩,
    ⟨busyAt .getRingAddrs 2 .identified .default [], [0, 0, 0, 0], by decide⟩,
    ⟨busyAt .getMhAddrs 2 .identified .default [], [0, 0, 0, 0, 0, 0], by decide⟩,
    ⟨busyAt .getMhSetting 2 .identified .default [], [0], by decide⟩, nofun⟩

theorem witness_UnaskedResponseChangesNothing :
    ∃ s : State, Instr.port .okResponse = .fromDevice ∧ s.status.busy = true ∧
      (∀ r, running s ≠ some (.expect r)) ∧ (∀ n, running s ≠ some (.packet n)) :=
  ⟨busyAt .focus 1 .identified .default [], rfl, rfl, nofun, nofun⟩

theorem witness_StepRunsTheInstruction :
    (∃ (s : State) (v : Half), s.turns = .host (.write .op v) :: [] ∧ decode .hostOp [v.setWidth 8] = .ok .shoot) ∧
    (∃ s : State, blockNext s = true ∧ s.status.busy = true ∧ currentAction s = some (.send .cmdShoot)) ∧
    (∃ (s : State) (r : List Byte), blockNext s = true ∧ s.status.busy = true ∧
      currentAction s = some (.expect .ok) ∧ s.answers = .ok r :: [] ∧ decode .fromDevice r = .ok .okResponse) :=
  ⟨⟨{ base with turns := [.host (.write .op 0x0011)] }, 0x0011, rfl, by decide⟩,
    ⟨busyAt .shoot 1 .identified .default [], rfl, rfl, rfl⟩,
    ⟨busyAt .shoot 2 .identified .default [.ok [0x06, 0x00]], [0x06, 0x00], rfl, rfl, rfl, rfl, by decide⟩⟩

/-! ### Witnesses with the invariant -/

/-- Between operations every session state but `Awake` has the invariant. -/
theorem inv_ready (x : SessionState) (as : List Answer) (ts : List Turn) (h : x ≠ .awake) :
    Inv { ready x as with turns := ts } where
  idleSeq _ := rfl
  busySeq h := by cases h
  busyNotDone h := by cases h
  errDone h := by cases h
  noError _ := ⟨rfl, rfl, rfl⟩
  anError h := by cases h
  runningSession _ h := by cases h
  restSession _ := by cases x <;> first | exact absurd rfl h | trivial
  writeFits h := by cases h
  payloadReady _ h := by cases h

/-- A running operation, at a step that is no decode step, has it when `SS` and `BAUD` fit the step. -/
theorem inv_busyAt (op : HostOp) (k : Nat) (x : SessionState) (b : LineSpeed) (as : List Answer) (ts : List Turn)
    (hk : 1 ≤ k ∧ k ≤ (stepList base op).length) (hs : sessionWhileRunning op k x b)
    (hd : ∀ d, (stepList base op)[k - 1]? ≠ some (.decode d)) :
    Inv { busyAt op k x b as with turns := ts } where
  idleSeq h := by cases h
  busySeq _ := ⟨op, rfl, hk.1, hk.2⟩
  busyNotDone _ := rfl
  errDone h := by cases h
  noError _ := ⟨rfl, rfl, rfl⟩
  anError h := by cases h
  runningSession o h := by cases h; exact hs
  restSession h := by cases h
  writeFits _ := Nat.zero_le _
  payloadReady d h := by
    obtain ⟨j, rfl⟩ : ∃ j, k = j + 1 := ⟨k - 1, by omega⟩
    exact absurd h (hd d)

/-- A decode step with the payload it needs has it too. -/
theorem inv_decoding (op : HostOp) (p : List Byte) (d : Decoder)
    (hop : (op, d) ∈ [(HostOp.getRingAddrs, Decoder.ring), (.getMhAddrs, .mhAddrs), (.getMhSetting, .mhSetting),
      (.readMemoInfo, .memoInfo)])
    (hp : (BitVec.ofNat 8 p.length : Byte).toNat = decodeLength d) : Inv (decoding op p) := by
  have hk : 3 ≤ (stepList base op).length ∧ (stepList base op)[2]? = some (.decode d) ∧
      sessionWhileRunning op 3 .identified .default := by
    simp only [List.mem_cons, Prod.mk.injEq, List.not_mem_nil, or_false] at hop
    rcases hop with ⟨rfl, rfl⟩ | ⟨rfl, rfl⟩ | ⟨rfl, rfl⟩ | ⟨rfl, rfl⟩ <;>
      exact ⟨by decide, rfl, .inl ⟨rfl, rfl⟩⟩
  exact {
    idleSeq := fun h => by cases h
    busySeq := fun _ => ⟨op, rfl, Nat.succ_pos _, hk.1⟩
    busyNotDone := fun _ => rfl
    errDone := fun h => by cases h
    noError := fun _ => ⟨rfl, rfl, rfl⟩
    anError := fun h => by cases h
    runningSession := fun o h => by cases h; exact hk.2.2
    restSession := fun h => by cases h
    writeFits := fun _ => Nat.zero_le _
    payloadReady := fun e h => by
      have : some (Action.decode d) = some (.decode e) := hk.2.1.symm.trans h
      cases this
      exact hp }

theorem witness_StepKeepsInvariant :
    ∃ s t : State, Inv s ∧ step s = .next t :=
  ⟨_, _, inv_busyAt .endFast 5 .fastMode .default [] [] (by decide) ⟨rfl, .inr ⟨rfl, rfl⟩⟩ nofun, rfl⟩

theorem witness_InstructionKeepsInvariant :
    ∃ s t : State, Inv s ∧ exec .writeMem s = .next t :=
  ⟨_, _, inv_ready .fastMode [] [] nofun, rfl⟩

theorem witness_StepAlwaysGoesOn : ∃ s : State, Inv s :=
  ⟨_, inv_ready .desync [] [] nofun⟩

theorem witness_SpeedFollowsTheSession :
    (∃ s t : State, Inv s ∧ step s = .next t ∧ t.status.busy = false ∧ t.ss = .fastMode) ∧
    (∃ s t : State, Inv s ∧ step s = .next t ∧ t.status.busy = false ∧ t.ss = .closed) ∧
    (∃ s t : State, Inv s ∧ step s = .next t ∧ t.status.busy = false ∧ t.ss = .identified) ∧
    (∃ s t : State, Inv s ∧ step s = .next t ∧ t.status.busy = false ∧ t.ss = .idle) :=
  ⟨⟨_, _, inv_busyAt .upgrade 5 .identified .fast [] [] (by decide) ⟨rfl, .inr ⟨rfl, rfl⟩⟩ nofun, rfl, rfl, rfl⟩,
    ⟨_, _, inv_busyAt .close 1 .identified .default [] [] (by decide) ⟨rfl, rfl⟩ nofun, rfl, rfl, rfl⟩,
    ⟨_, _, inv_busyAt .start 6 .awake .default [] [] (by decide) ⟨rfl, .inr ⟨by decide, rfl⟩⟩ nofun, rfl, rfl, rfl⟩,
    ⟨_, _, inv_ready .idle [] [] nofun, rfl, rfl, rfl⟩⟩

/-- Each of the table's rows, an abort and a reset among them. -/
theorem witness_SessionChangesByTheTable :
    (∃ s t : State, Inv s ∧ step s = .next t ∧ s.seq = ⟨some .start, 1⟩ ∧ s.ss ≠ t.ss) ∧
    (∃ s t : State, Inv s ∧ step s = .next t ∧ s.seq = ⟨some .start, 6⟩ ∧ s.ss ≠ t.ss) ∧
    (∃ s t : State, Inv s ∧ step s = .next t ∧ s.seq = ⟨some .upgrade, 5⟩ ∧ s.ss ≠ t.ss) ∧
    (∃ s t : State, Inv s ∧ step s = .next t ∧ s.seq = ⟨some .endFast, 5⟩ ∧ s.ss ≠ t.ss) ∧
    (∃ s t : State, Inv s ∧ step s = .next t ∧ s.seq = ⟨some .close, 1⟩ ∧ s.ss ≠ t.ss) ∧
    (∃ s t : State, Inv s ∧ step s = .next t ∧ s.seq = ⟨some .shoot, 1⟩ ∧ s.ss ≠ t.ss ∧ t.status.err = true) ∧
    (∃ s t : State, Inv s ∧ step s = .next t ∧ resetNext s = true ∧ s.ss ≠ t.ss) :=
  ⟨⟨_, _, inv_busyAt .start 1 .idle .default [.ok []] [] (by decide) ⟨rfl, .inl ⟨rfl, rfl⟩⟩ nofun, rfl, rfl, nofun⟩,
    ⟨_, _, inv_busyAt .start 6 .awake .default [] [] (by decide) ⟨rfl, .inr ⟨by decide, rfl⟩⟩ nofun, rfl, rfl, nofun⟩,
    ⟨_, _, inv_busyAt .upgrade 5 .identified .fast [] [] (by decide) ⟨rfl, .inr ⟨rfl, rfl⟩⟩ nofun, rfl, rfl, nofun⟩,
    ⟨_, _, inv_busyAt .endFast 5 .fastMode .default [] [] (by decide) ⟨rfl, .inr ⟨rfl, rfl⟩⟩ nofun, rfl, rfl, nofun⟩,
    ⟨_, _, inv_busyAt .close 1 .identified .default [] [] (by decide) ⟨rfl, rfl⟩ nofun, rfl, rfl, nofun⟩,
    ⟨_, _, inv_busyAt .shoot 1 .fastMode .fast [.err] [] (by decide) (.inr ⟨rfl, rfl⟩) nofun, rfl, rfl, nofun, rfl⟩,
    ⟨_, _, inv_ready .closed [] [.host .reset] nofun, rfl, rfl, nofun⟩⟩

theorem witness_EndedSessionsStaySilent :
    (∃ s t : State, Inv s ∧ s.ss = .closed ∧ resetNext s = false ∧ step s = .next t) ∧
    (∃ s t : State, Inv s ∧ s.ss = .desync ∧ resetNext s = false ∧ step s = .next t) :=
  ⟨⟨_, _, inv_ready .closed [] [.host (.write .op 0x01)] nofun, rfl, rfl, rfl⟩,
    ⟨_, _, inv_ready .desync [] [.host (.write .op 0x10)] nofun, rfl, rfl, rfl⟩⟩

/-- A step that aborts, the read of nothing, an operation refused, and an illegal value. -/
theorem witness_ErrorsAreThoseOfTheTable :
    (∃ s t : State, Inv s ∧ blockNext s = true ∧ s.status.busy = true ∧ s.seq.cur = some .start ∧
      step s = .next t ∧ t.status.err = true) ∧
    (∃ s t : State, Inv s ∧ blockNext s = true ∧ s.status.busy = true ∧ s.seq.cur = some .readMem ∧
      step s = .next t ∧ t.status.err = true ∧ t.errcode = 2 ∧ t.errsub = 1) ∧
    (∃ s t : State, s.status.busy = false ∧ exec (opInstr .shoot) s = .next t ∧ t.status.err = true) ∧
    (∃ s : State, s.status.busy = false ∧ s.turns = .host (.write .op 0x0023) :: [] ∧
      operationOf ((0x0023 : Half).toNat % 256) = none) :=
  ⟨⟨_, _, inv_busyAt .start 1 .idle .default [.err] [] (by decide) ⟨rfl, .inl ⟨rfl, rfl⟩⟩ nofun,
      rfl, rfl, rfl, rfl, rfl⟩,
    ⟨_, _, inv_busyAt .readMem 2 .identified .default [.ok [0x02, 0x00, 0x03]] [] (by decide) (.inl ⟨rfl, rfl⟩) nofun,
      rfl, rfl, rfl, rfl, rfl, rfl, rfl⟩,
    ⟨ready .closed [], _, rfl, rfl, rfl⟩,
    ⟨{ base with turns := [.host (.write .op 0x0023)] }, rfl, rfl, by decide⟩⟩

theorem witness_OperandsChangeOnlyByTheHost :
    (∃ s t : State, step s = .next t ∧ blockNext s = true ∧ s.status.busy = true) ∧
    (∃ s t : State, step s = .next t ∧ s.status.busy = true ∧ resetNext s = false ∧ blockNext s = false) :=
  ⟨⟨busyAt .focus 1 .identified .default [.ok []], _, rfl, rfl, rfl⟩,
    ⟨{ busyAt .focus 1 .identified .default [] with turns := [.host (.write .vlen 1)] }, _, rfl, rfl, rfl, rfl⟩⟩

/-- Each group of result registers changes in one step. -/
theorem witness_ResultRegistersChangeOnlyOnSuccess :
    (∃ s t : State, Inv s ∧ step s = .next t ∧ resetNext s = false ∧
      ¬(t.ringStart = s.ringStart ∧ t.ringEnd = s.ringEnd)) ∧
    (∃ s t : State, Inv s ∧ step s = .next t ∧ resetNext s = false ∧
      ¬(t.mhCurrent = s.mhCurrent ∧ t.mhStart = s.mhStart ∧ t.mhRollStart = s.mhRollStart)) ∧
    (∃ s t : State, Inv s ∧ step s = .next t ∧ resetNext s = false ∧
      ¬(t.mhSetting = s.mhSetting ∧ t.mhBpf = s.mhBpf)) ∧
    (∃ s t : State, Inv s ∧ step s = .next t ∧ resetNext s = false ∧
      ¬(t.rollId = s.rollId ∧ t.bytesToRead = s.bytesToRead)) :=
  ⟨⟨_, _, inv_decoding .getRingAddrs [0x00, 0x40, 0xFF, 0x7F] .ring (by decide) rfl, rfl, rfl, by decide⟩,
    ⟨_, _, inv_decoding .getMhAddrs [0x10, 0x42, 0x00, 0x40, 0x80, 0x41] .mhAddrs (by decide) rfl, rfl, rfl, by decide⟩,
    ⟨_, _, inv_decoding .getMhSetting [0x5F] .mhSetting (by decide) rfl, rfl, rfl, by decide⟩,
    ⟨_, _, inv_decoding .readMemoInfo [0x62, 0x31, 0x2C, 0x01] .memoInfo (by decide) rfl, rfl, rfl, by decide⟩⟩

theorem witness_AtMostOneEventAStep :
    ∃ s t : State, step s = .next t ∧ t.trace = [.delay 200] :=
  ⟨busyAt .start 2 .awake .default [], _, rfl, rfl⟩

theorem witness_EveryOperationEnds :
    ∃ s : State, Inv s ∧ hostQuiet s = true ∧ s.status.busy = true :=
  ⟨_, inv_busyAt .start 1 .idle .default [] [] (by decide) ⟨rfl, .inl ⟨rfl, rfl⟩⟩ nofun, rfl, rfl⟩

/-- A write of each kind, to an idle block and to a busy one. -/
theorem witness_HostWritesOperands :
    ∀ r ∈ ([.aSpace, .aLen, .aAddr, .vlen, .pbuf 0, .pbuf 254, .status, .rlen, .rbuf 254] : List HostReg), r ≠ .op ∧
      (∃ s : State, s.turns = .host (.write r 0xFFFF) :: [] ∧ s.status.busy = false) ∧
      (∃ s : State, s.turns = .host (.write r 0xFFFF) :: [] ∧ s.status.busy = true) := by
  have h : ∀ r : HostReg, (∃ s : State, s.turns = .host (.write r 0xFFFF) :: [] ∧ s.status.busy = false) ∧
      (∃ s : State, s.turns = .host (.write r 0xFFFF) :: [] ∧ s.status.busy = true) :=
    fun r => ⟨⟨{ base with turns := [.host (.write r 0xFFFF)] }, rfl, rfl⟩,
      ⟨{ busyAt .focus 1 .identified .default [] with turns := [.host (.write r 0xFFFF)] }, rfl, rfl⟩⟩
  simp only [List.forall_mem_cons]
  exact ⟨⟨nofun, h _⟩, ⟨nofun, h _⟩, ⟨nofun, h _⟩, ⟨nofun, h _⟩, ⟨nofun, h _⟩, ⟨nofun, h _⟩, ⟨nofun, h _⟩, ⟨nofun, h _⟩,
    ⟨nofun, h _⟩, nofun⟩

theorem witness_HostReads :
    (∃ s : State, s.turns = .host (.read .rlen) :: [] ∧ s.status.busy = false) ∧
    (∃ s : State, s.turns = .host (.read .status) :: [] ∧ s.status.busy = true ∧ unspecifiedWhileBusy .status = false) ∧
    (∃ s : State, s.turns = .host (.read .mhBpf) :: [] ∧ s.status.busy = true) :=
  ⟨⟨{ base with turns := [.host (.read .rlen)] }, rfl, rfl⟩,
    ⟨{ busyAt .focus 1 .identified .default [] with turns := [.host (.read .status)] }, rfl, rfl, rfl⟩,
    ⟨{ busyAt .focus 1 .identified .default [] with turns := [.host (.read .mhBpf)] }, rfl, rfl⟩⟩

theorem witness_ResetTakesEffectAtAnyTime :
    ∃ s : State, s.turns = .host .reset :: [] ∧ s.status.busy = true :=
  ⟨{ busyAt .upgrade 5 .identified .fast [] with turns := [.host .reset] }, rfl, rfl⟩

/-- At a packet read and at each validator: enough bytes, more than enough, too few, an error, and for the
validators other bytes than those expected. -/
theorem witness_ReadGivesExactlyTheBytesAsked :
    (∀ a ∈ ([.ok [0x02, 0x45, 0x45, 0x03], .ok [0x02, 0x45, 0x45, 0x03, 0x00], .ok [0x02, 0x45, 0x45], .err] : List Answer),
      ∃ s : State, blockNext s = true ∧ running s = some (.packet 1) ∧ bytesAsked (.packet 1) = some 4 ∧
        s.answers = a :: []) ∧
    (∀ a ∈ ([.ok [0x06, 0x00], .ok [0x06, 0x00, 0x15], .ok [0x06], .err, .ok [0x00, 0x06]] : List Answer),
      ∃ s : State, blockNext s = true ∧ running s = some (.expect .ok) ∧ bytesAsked (.expect .ok) = some 2 ∧
        s.answers = a :: []) ∧
    (∀ a ∈ ([.ok Config.UNIT_ID_RESP, .ok badId, .ok [0x31], .err] : List Answer),
      ∃ s : State, blockNext s = true ∧ running s = some (.expect .unitId) ∧ bytesAsked (.expect .unitId) = some 16 ∧
        s.answers = a :: []) ∧
    (∀ a ∈ ([.ok [0x04, 0x04], .ok [0x04, 0x05], .ok [], .err] : List Answer),
      ∃ s : State, blockNext s = true ∧ running s = some (.expect .eotEcho) ∧ bytesAsked (.expect .eotEcho) = some 2 ∧
        s.answers = a :: []) :=
  ⟨fun a _ => ⟨busyAt .getMhSetting 2 .identified .default [a], rfl, rfl, rfl, rfl⟩,
    fun a _ => ⟨busyAt .shoot 2 .identified .default [a], rfl, rfl, rfl, rfl⟩,
    fun a _ => ⟨busyAt .start 5 .awake .default [a], rfl, rfl, rfl, rfl⟩,
    fun a _ => ⟨busyAt .endFast 2 .fastMode .fast [a], rfl, rfl, rfl, rfl⟩⟩

theorem witness_SpeedChangesOnlyAtItsSteps :
    (∃ s t : State, step s = .next t ∧ t.baud ≠ s.baud ∧ s.seq = ⟨some .upgrade, 4⟩) ∧
    (∃ s t : State, step s = .next t ∧ t.baud ≠ s.baud ∧ s.seq = ⟨some .endFast, 4⟩) ∧
    (∃ s t : State, step s = .next t ∧ t.baud ≠ s.baud ∧ resetNext s = true) :=
  ⟨⟨busyAt .upgrade 4 .identified .default [.ok []], _, rfl, nofun, rfl⟩,
    ⟨busyAt .endFast 4 .fastMode .fast [.ok []], _, rfl, nofun, rfl⟩,
    ⟨{ ready .fastMode [] with turns := [.host .reset] }, _, rfl, nofun, rfl⟩⟩

theorem witness_ReceivedPayloadChangesOnlyByPackets :
    ∃ s t : State, step s = .next t ∧ ¬(t.rbuf = s.rbuf ∧ t.rlen = s.rlen) :=
  ⟨busyAt .getMhSetting 2 .identified .default [.ok [0x02, 0x45, 0x45, 0x03]], _, rfl, fun h => absurd h.2 (by decide)⟩

theorem witness_ErrorsStayUntilTheNextOpWrite :
    ∃ s t : State, s.status = ⟨false, true, true⟩ ∧ s.errcode = 8 ∧ step s = .next t ∧ resetNext s = false ∧
      ∀ v rest, s.turns ≠ .host (.write .op v) :: rest :=
  ⟨{ ready .idle [] with status := ⟨false, true, true⟩, errcode := 8, turns := [.host (.write .aLen 1)] },
    _, rfl, rfl, rfl, rfl, nofun⟩

theorem witness_FocusSubcommandSession :
    ∃ s : State, s.status.busy = false ∧ s.ss = .idle ∧
      s.answers = .ok [] :: .ok [] :: .ok [] :: .ok Config.UNIT_ID_RESP :: .ok [] :: .ok [0x06, 0x00] :: [] :=
  ⟨ready .idle [.ok [], .ok [], .ok [], .ok Config.UNIT_ID_RESP, .ok [], .ok [0x06, 0x00]], rfl, rfl, rfl⟩

end Sys2Proof.Tests
end

section
/-! SUPPORT. The packet codec (spec/40_packet_codec.md): the checksum as a sum modulo 255, and what
`deserialize` answers to the bytes `a :: (q ++ [c, z])`, the shape of every sequence of 4 bytes or more. -/

namespace Sys2Proof.Machine

/-! ### The checksum -/

/-- The closed form of R103. -/
theorem checksum_toNat (p : List Byte) : (checksum p).toNat = (p.map BitVec.toNat).sum % 255 := by
  have hsum : checksumAcc p = (p.map BitVec.toNat).sum % 255 := by
    simpa [checksumAcc] using checksumAcc_foldl p 0
  have hlt := checksumAcc_lt p
  rw [checksum, BitVec.toNat_ofNat, Nat.mod_eq_of_lt (by omega), hsum]

theorem checksum_toNat_le (p : List Byte) : (checksum p).toNat ≤ 254 := by
  rw [checksum_toNat]
  omega

/-- The checksum sees a byte only modulo 255. -/
theorem checksum_set_eq_iff {p : List Byte} {j : Nat} {old : Byte} (v : Byte) (h : p[j]? = some old) :
    checksum (p.set j v) = checksum p ↔ v.toNat % 255 = old.toNat % 255 := by
  have hsum : ((p.set j v).map BitVec.toNat).sum + old.toNat = (p.map BitVec.toNat).sum + v.toNat := by
    induction p generalizing j with
    | nil => simp at h
    | cons b p ih =>
      cases j with
      | zero =>
        obtain rfl : b = old := by simpa using h
        simp only [List.set_cons_zero, List.map_cons, List.sum_cons]
        omega
      | succ j =>
        have := ih (j := j) (by simpa using h)
        simp only [List.set_cons_succ, List.map_cons, List.sum_cons]
        omega
  rw [← BitVec.toNat_inj, checksum_toNat, checksum_toNat]
  omega

/-- Two different bytes are the same modulo 255 only when they are 0x00 and 0xFF (R110). -/
theorem byte_mod_255_eq_iff {v old : Byte} (hne : v ≠ old) :
    v.toNat % 255 = old.toNat % 255 ↔ (old = 0x00 ∧ v = 0xFF) ∨ (old = 0xFF ∧ v = 0x00) := by
  bv_omega

/-! ### Frames -/

theorem serialize_eq_cons (p : List Byte) : serialize p = Config.STX :: (p ++ [checksum p, Config.ETX]) := by
  simp [serialize]

theorem exists_cons_append_pair {f : List Byte} (h : 4 ≤ f.length) :
    ∃ a q c z, 1 ≤ q.length ∧ f = a :: (q ++ [c, z]) := by
  obtain ⟨a, g, rfl⟩ := List.exists_cons_of_length_pos (by omega : 0 < f.length)
  obtain ⟨g', z, rfl⟩ := List.eq_nil_or_concat' g |>.resolve_left (by rintro rfl; simp at h)
  obtain ⟨q, c, rfl⟩ := List.eq_nil_or_concat' g' |>.resolve_left (by rintro rfl; simp at h)
  exact ⟨a, q, c, z, by simp at h; omega, by simp⟩

theorem deserialize_of_length_lt {f : List Byte} (h : f.length < 4) : deserialize f = .error .tooShort :=
  if_pos h

/-- The checks after the length, byte by byte (R106). -/
theorem deserialize_cons_append_pair (a c z : Byte) {q : List Byte} (hq : 1 ≤ q.length) :
    deserialize (a :: (q ++ [c, z])) =
      if a ≠ 0x02 then .error .badStart
      else if z ≠ 0x03 then .error .badEnd
      else if c ≠ checksum q then .error .badChecksum
      else .ok q := by
  have hlen : (a :: (q ++ [c, z])).length = q.length + 3 := by simp
  have hlong : ¬ q.length + 3 < Config.MIN_FRAME := by simp [Config.MIN_FRAME]; omega
  have hslice : slice (a :: (q ++ [c, z])) 1 (q.length + 3 - 2) = q := by simp [slice]
  simp only [deserialize, hlen, hlong, hslice, if_false]
  simp [Config.STX, Config.ETX, eq_comm (a := checksum q)]

/-- R109. -/
theorem deserialize_eq_ok_iff {f p : List Byte} :
    deserialize f = .ok p ↔ 1 ≤ p.length ∧ f = serialize p := by
  constructor
  · intro h
    obtain ⟨a, q, c, z, hq, rfl⟩ := exists_cons_append_pair (deserialize_length h).1
    rw [deserialize_cons_append_pair a c z hq] at h
    split_ifs at h with ha hz hc
    cases h
    rw [not_not.mp ha, not_not.mp hz, not_not.mp hc, serialize_eq_cons]
    exact ⟨hq, rfl⟩
  · rintro ⟨hp, rfl⟩
    rw [serialize_eq_cons, deserialize_cons_append_pair _ _ _ hp]
    simp [Config.STX, Config.ETX]

/-! ### One byte of a serialized payload changed -/

theorem serialize_set_zero (p : List Byte) (v : Byte) :
    (serialize p).set 0 v = v :: (p ++ [checksum p, Config.ETX]) := by
  simp [serialize_eq_cons]

theorem serialize_set_payload {p : List Byte} {j : Nat} (v : Byte) (h : j < p.length) :
    (serialize p).set (j + 1) v = Config.STX :: (p.set j v ++ [checksum p, Config.ETX]) := by
  simp [serialize_eq_cons, h]

theorem serialize_set_checksum (p : List Byte) (v : Byte) :
    (serialize p).set (p.length + 1) v = Config.STX :: (p ++ [v, Config.ETX]) := by
  simp [serialize_eq_cons]

theorem serialize_set_last (p : List Byte) (v : Byte) :
    (serialize p).set (p.length + 2) v = Config.STX :: (p ++ [checksum p, v]) := by
  simp [serialize_eq_cons]

theorem serialize_getElem?_zero (p : List Byte) : (serialize p)[0]? = some 0x02 := by
  simp [serialize_eq_cons, Config.STX]

theorem serialize_getElem?_payload {p : List Byte} {j : Nat} (h : j < p.length) :
    (serialize p)[j + 1]? = p[j]? := by
  simp [serialize_eq_cons, List.getElem?_append_left h]

theorem serialize_getElem?_checksum (p : List Byte) : (serialize p)[p.length + 1]? = some (checksum p) := by
  simp [serialize_eq_cons]

theorem serialize_getElem?_last (p : List Byte) : (serialize p)[p.length + 2]? = some 0x03 := by
  simp [serialize_eq_cons, Config.ETX]

/-- A changed payload byte goes unseen exactly when it leaves the checksum as it was. -/
theorem deserialize_serialize_set_payload {p : List Byte} {j : Nat} (v : Byte) (h : j < p.length) :
    deserialize ((serialize p).set (j + 1) v) =
      if checksum (p.set j v) = checksum p then .ok (p.set j v) else .error .badChecksum := by
  rw [serialize_set_payload v h, deserialize_cons_append_pair _ _ _ (by simp; omega)]
  simp [Config.STX, Config.ETX, eq_comm]

/-! ### The obligations of the family -/

/-- Settles O8, by the closed form of the accumulator. -/
theorem checksumIsTheSumMod255 : Obligations.ChecksumIsTheSumMod255 :=
  checksum_toNat

/-- Settles O9: an accepted frame carries the checksum of its payload, which is at most 254. -/
theorem checksumIsNeverFF : Obligations.ChecksumIsNeverFF := by
  refine ⟨checksum_toNat_le, fun f hff => ?_⟩
  cases hf : deserialize f with
  | error k => exact ⟨k, rfl⟩
  | ok p =>
    obtain ⟨-, rfl⟩ := deserialize_eq_ok_iff.mp hf
    have hc : checksum p = 0xFF := by
      rw [serialize_length] at hff
      exact Option.some.inj ((serialize_getElem?_checksum p).symm.trans hff)
    have hle := checksum_toNat_le p
    simp [hc] at hle

/-- Settles O11: a short sequence fails the first check, any other is `a :: (q ++ [c, z])`, of which the
checks read `a`, `z` and `c` in this order. -/
theorem frameChecksInOrder : Obligations.FrameChecksInOrder := by
  intro f
  by_cases hshort : f.length < 4
  · have hlong : ¬ 4 ≤ f.length := by omega
    simp [deserialize_of_length_lt hshort, hshort, hlong]
  · obtain ⟨a, q, c, z, hq, rfl⟩ := exists_cons_append_pair (by omega : 4 ≤ f.length)
    have hlong : 4 ≤ (a :: (q ++ [c, z])).length := by omega
    have hlast : (a :: (q ++ [c, z])).getLast? = some z := by simp [List.getLast?_cons]
    have hchk : (a :: (q ++ [c, z]))[(a :: (q ++ [c, z])).length - 2]? = some c := by simp
    have hpay : ((a :: (q ++ [c, z])).drop 1).take ((a :: (q ++ [c, z])).length - 3) = q := by simp
    have hlen : (a :: (q ++ [c, z])).length - 3 = q.length := by simp
    rw [deserialize_cons_append_pair a c z hq, hlast, hchk, hpay, hlen]
    simp only [hshort, hlong, List.head?_cons]
    by_cases ha : a = 2#8
    case neg => simp [ha]
    by_cases hz : z = 3#8
    case neg => simp [ha, hz]
    by_cases hc : c = checksum q
    case neg => simp [ha, hz, hc]
    simp +contextual [ha, hz, hc, eq_comm]

/-- Settles O13. -/
theorem acceptedFramesAreSerialized : Obligations.AcceptedFramesAreSerialized :=
  fun _ _ => deserialize_eq_ok_iff

/-- Settles O14, position by position; at a payload byte the checksum tells `old` from `v` unless they are
the same modulo 255. -/
theorem oneChangedByte : Obligations.OneChangedByte := by
  intro p i old v hp hold hne
  refine ⟨?first, ?last, ?chk, fun h1 hi => ?payload⟩
  case first =>
    rintro rfl
    obtain rfl : 0x02 = old := Option.some.inj ((serialize_getElem?_zero p).symm.trans hold)
    rw [serialize_set_zero, deserialize_cons_append_pair _ _ _ hp, if_pos hne]
  case last =>
    rintro rfl
    obtain rfl : 0x03 = old := Option.some.inj ((serialize_getElem?_last p).symm.trans hold)
    rw [serialize_set_last, deserialize_cons_append_pair _ _ _ hp, if_neg (by simp [Config.STX]), if_pos hne]
  case chk =>
    rintro rfl
    obtain rfl : checksum p = old := Option.some.inj ((serialize_getElem?_checksum p).symm.trans hold)
    rw [serialize_set_checksum, deserialize_cons_append_pair _ _ _ hp, if_neg (by simp [Config.STX]),
      if_neg (by simp [Config.ETX]), if_pos hne]
  case payload =>
    obtain ⟨j, rfl⟩ := Nat.exists_eq_add_of_le' h1
    have hj : j < p.length := by omega
    have hold : p[j]? = some old := by rwa [serialize_getElem?_payload hj] at hold
    rw [deserialize_serialize_set_payload v hj, ← byte_mod_255_eq_iff hne, ← checksum_set_eq_iff v hold]
    exact ⟨fun h => if_pos h, fun h => if_neg h⟩

/-- Settles O10. -/
theorem serializedShape : Obligations.SerializedShape := by
  intro p
  refine ⟨serialize_length p, serialize_getElem?_zero p, ?_, ?_, ?_⟩ <;> rw [serialize_length]
  · exact serialize_getElem?_last p
  · exact serialize_getElem?_checksum p
  · simp [slice, serialize_eq_cons]

/-- Settles O12: the round trip is one half of R109, and the empty payload's frame has 3 bytes. -/
theorem nonemptyPayloadRoundTrips : Obligations.NonemptyPayloadRoundTrips :=
  ⟨fun _ hp => deserialize_eq_ok_iff.mpr ⟨hp, rfl⟩, fun _ => deserialize_of_length_lt,
    deserialize_of_length_lt (by simp)⟩

end Sys2Proof.Machine
end

section
/-! SUPPORT. The command encoder (spec/41_command_encoder.md): what `encode` answers to a `WriteToMemory`, and
that the fixed formats decode back what it gives. -/

namespace Sys2Proof.Machine

/-! ### WriteToMemory -/

theorem encode_writeToMemory_of_le (a : Half) {v : List Byte} (h : v.length ≤ 255) :
    encode (.writeToMemory a v) = .ok (wrh8 a (BitVec.ofNat 8 v.length) ++ serialize v) :=
  if_neg (Nat.not_lt.mpr h)

theorem encode_writeToMemory_of_lt (a : Half) {v : List Byte} (h : 255 < v.length) :
    encode (.writeToMemory a v) = .error .encodingError :=
  if_pos h

theorem encode_writeToMemory_eq_ok_iff {a : Half} {v bs : List Byte} :
    encode (.writeToMemory a v) = .ok bs ↔
      v.length ≤ 255 ∧ bs = wrh8 a (BitVec.ofNat 8 v.length) ++ serialize v := by
  by_cases h : v.length ≤ 255
  · simp [encode_writeToMemory_of_le a h, h, eq_comm]
  · simp [encode_writeToMemory_of_lt a (Nat.not_le.mp h), h]

/-- The length byte of an accepted write loses nothing (R121). -/
theorem lengthByte_toNat {v : List Byte} (h : v.length ≤ 255) : (BitVec.ofNat 8 v.length : Byte).toNat = v.length := by
  rw [BitVec.toNat_ofNat]
  omega

/-! ### The fixed formats decode what they encode -/

theorem decodeFixedCommand_family (opc space hi lo zero len : Byte) (tail : List Byte) :
    decodeFixedCommand (Config.SOH :: Config.CMD_CLASS :: opc :: space :: hi :: lo :: zero :: len :: tail) =
      decodeFamily opc space hi lo zero len tail := rfl

theorem decodeFixedCommand_readMemory (space : Byte) (a : Half) (n : Byte) :
    decodeFixedCommand (cmd9 Config.OPC_READ space a n) = .ok (.readMemory space a n) := by
  rw [cmd9, decodeFixedCommand_family, decodeFamily, if_pos rfl, if_pos ⟨rfl, rfl⟩, joinBytes_high_low]

/-- A `PKT` of `n` payload bytes is the tail of a write of these bytes (R80). -/
theorem decodeWriteTail_serialize (a : Half) {v : List Byte} {n : Byte} (hn : n.toNat = v.length) :
    decodeWriteTail a n (serialize v) = .ok (.writeToMemory a v) := by
  have hv : slice (serialize v) 1 (v.length + 1) = v := by simp [slice, serialize_eq_cons]
  simp [decodeWriteTail, hn, hv]

theorem decodeFixedCommand_writeToMemory (a : Half) {v : List Byte} {n : Byte} (hn : n.toNat = v.length) :
    decodeFixedCommand (wrh8 a n ++ serialize v) = .ok (.writeToMemory a v) := by
  have hfamily : decodeFixedCommand (wrh8 a n ++ serialize v) =
      decodeWriteTail (joinBytes (highByte a) (lowByte a)) n (serialize v) := rfl
  rw [hfamily, joinBytes_high_low, decodeWriteTail_serialize a hn]

/-- Every command but the two open ones decodes back from its bytes. -/
theorem decodeFixedCommand_encode {i : Instr} {bs : List Byte} (hp : i.port = .toDevice) (hb : i ≠ .baudUp)
    (hm : i ≠ .readMemoHolderInfo) (he : encode i = .ok bs) : decodeFixedCommand bs = .ok i := by
  cases i with
  | wakeup | unitInquiry | eot | cmdFocus | cmdShoot =>
    cases he
    rfl
  | readMemory space a n =>
    cases he
    exact decodeFixedCommand_readMemory space a n
  | writeToMemory a v =>
    obtain ⟨hv, rfl⟩ := encode_writeToMemory_eq_ok_iff.mp he
    exact decodeFixedCommand_writeToMemory a (lengthByte_toNat hv)
  | baudUp => exact absurd rfl hb
  | readMemoHolderInfo => exact absurd rfl hm
  | _ => cases hp

/-! ### The lengths and the ends of the formats -/

/-- A `CMD9` or `WR` result begins `0x01, 0x20` and ends `0x03` (R125). -/
def IsFamilyFrame (bs : List Byte) : Prop := bs.take 2 = [0x01, 0x20] ∧ bs.getLast? = some 0x03

theorem cmd9_isFamilyFrame (opc space : Byte) (a : Half) (n : Byte) : IsFamilyFrame (cmd9 opc space a n) :=
  ⟨rfl, rfl⟩

theorem wrh8_append_serialize_isFamilyFrame (a : Half) (n : Byte) (v : List Byte) :
    IsFamilyFrame (wrh8 a n ++ serialize v) :=
  ⟨rfl, by rw [serialize, ← List.append_assoc]; exact List.getLast?_concat⟩

theorem wrh8_append_serialize_length (a : Half) (n : Byte) (v : List Byte) :
    (wrh8 a n ++ serialize v).length = 11 + v.length := by
  simp [wrh8]
  omega

/-! ### The obligations of the family -/

/-- Settles O5: the lengths are those of the formats, and an accepted write has at most 255 values. -/
theorem encodedCommandLengths : Obligations.EncodedCommandLengths := by
  refine ⟨?wakeup, ?unitInquiry, ?eot, ?baudUp, ?memoInfo, fun i bs hi he => ?cmd9, fun a v bs he => ?write⟩
  case wakeup | unitInquiry | eot | baudUp | memoInfo =>
    rintro _ ⟨⟩
    rfl
  case cmd9 =>
    obtain ⟨opc, space, a, n, rfl⟩ : ∃ opc space a n, bs = cmd9 opc space a n := by
      rcases hi with rfl | rfl | ⟨_, _, _, rfl⟩ <;> cases he <;> exact ⟨_, _, _, _, rfl⟩
    exact ⟨rfl, cmd9_isFamilyFrame opc space a n⟩
  case write =>
    obtain ⟨hv, rfl⟩ := encode_writeToMemory_eq_ok_iff.mp he
    have hlen := wrh8_append_serialize_length a (BitVec.ofNat 8 v.length) v
    exact ⟨hlen, by omega, by omega, wrh8_append_serialize_isFamilyFrame a _ v⟩

/-- Settles O6: one decoder gives back the command from its bytes, so no two share them. -/
theorem commandsHaveDifferentBytes : Obligations.CommandsHaveDifferentBytes := by
  refine ⟨fun i j bs hpi hpj hbi hmi hbj hmj hei hej => ?distinct, fun a v bs he => ?lengthByte⟩
  case distinct =>
    have hi := decodeFixedCommand_encode hpi hbi hmi hei
    have hj := decodeFixedCommand_encode hpj hbj hmj hej
    exact Except.ok.inj (hi.symm.trans hj)
  case lengthByte =>
    obtain ⟨hv, rfl⟩ := encode_writeToMemory_eq_ok_iff.mp he
    exact lengthByte_toNat hv

/-- Settles O7: a command's address bytes are the arithmetic ones. -/
theorem commandBytes : Obligations.CommandBytes := by
  refine ⟨rfl, rfl, rfl, rfl, rfl, fun space a n => ?read, fun a v hv => ?write,
    fun a _ => encode_writeToMemory_of_lt a⟩
  case read =>
    have hbytes : cmd9 Config.OPC_READ space a n = Claims.readBytes space a n := by
      rw [cmd9, highByte_eq, lowByte_eq]
      rfl
    exact congrArg Except.ok hbytes
  case write =>
    have hbytes : wrh8 a (BitVec.ofNat 8 v.length) ++ serialize v = Claims.writeBytes a v := by
      rw [wrh8, highByte_eq, lowByte_eq]
      rfl
    rw [encode_writeToMemory_of_le a hv, hbytes]

end Sys2Proof.Machine
end

section
/-! SUPPORT. How an operation runs from its `OP` write while the host waits: the state between two steps, one
lemma for the start and one for each way a step can end (R141, R142, R197), in the terms of the statements. -/

namespace Sys2Proof.Machine

open Sys2Proof.Claims

/-- The state in which `op` has done `k` of its steps, having used the answers before `rest` and caused the
events `evs`; its work on the other registers is in `s`. It is to a running operation what `completed` is to an
ended one. -/
def underway (op : HostOp) (s : State) (k : Nat) (rest : List Answer) (evs : List Event) : State :=
  { s with
    status := ⟨true, false, false⟩, errcode := 0, errsub := 0, errstep := 0, seq := ⟨some op, k + 1⟩
    turns := s.turns.drop k, answers := rest, trace := s.trace ++ evs }

/-- The same state once the block has taken its turn: where the work of step `k + 1` begins. -/
def onTurn (op : HostOp) (s : State) (k : Nat) (rest : List Answer) (evs : List Event) : State :=
  { underway op s k rest evs with turns := (s.turns.drop k).drop 1 }

theorem currentAction_underway {op : HostOp} {s : State} {k : Nat} {rest : List Answer} {evs : List Event}
    {a : Action} {todo : List Action} (hsteps : (stepList s op).drop k = a :: todo) :
    currentAction (underway op s k rest evs) = some a := by
  have hget : (stepList s op)[k]? = some a := by rw [← List.head?_drop, hsteps]; rfl
  exact hget

theorem stepCount_of_drop {op : HostOp} {s : State} {k : Nat} {todo : List Action}
    (hsteps : (stepList s op).drop k = todo) : stepCount op - k = todo.length := by
  rw [← hsteps, List.length_drop, stepList_length]

theorem blockNext_underway {op : HostOp} {s : State} {k : Nat} {rest : List Answer} {evs : List Event}
    (hq : hostQuiet s = true) : blockNext (underway op s k rest evs) = true :=
  hostQuiet_block (hostQuiet_drop hq rfl)

theorem runs_snoc {k : Nat} {s t u : State} (h : runs k s t) (hstep : step t = .next u) : runs (k + 1) s u := by
  induction k generalizing s with
  | zero =>
    cases h
    exact run_succ hstep
  | succ k ih =>
    simp only [runs, Host.Core.run] at h
    split at h
    case h_1 w hw => exact (run_succ hw).trans (ih h)
    case h_2 | h_3 => cases h

theorem ranTo_snoc {i : Instr} {k : Nat} {s t u : State} (h : ranTo i k s t) (hstep : step t = .next u) :
    ranTo i (k + 1) s u :=
  have ⟨v, hexec, hruns⟩ := h
  ⟨v, hexec, runs_snoc hruns hstep⟩

/-- The accepted `OP` write starts the operation (R141 A4). -/
theorem ranTo_starts {op : HostOp} {s : State} (hf : free s) (hacc : acceptedIn op s.ss = true)
    (hw : op = .writeMem → s.vlen.toNat ≤ 255) : ranTo (opInstr op) 0 s (underway op s 0 s.answers []) := by
  have hstart : writeOp op s = underway op s 0 s.answers [] := by
    rw [writeOp_starts hf.1 hacc hw, underway, List.append_nil]
    rfl
  exact ⟨_, (exec_opInstr op s).trans (congrArg _ hstart), rfl⟩

/-! In the three lemmas below `hwork` says what the step's work comes to: it turns `u` into `v`, leaves the answers
`rest` and causes the events `es`. -/

section
variable {i : Instr} {op : HostOp} {s u v : State} {k : Nat} {l rest : List Answer} {evs es : List Event}
  {a b : Action} {todo : List Action}

/-- A step succeeds and another one follows it (R33). -/
theorem ranTo_goes_on (h : ranTo i k s (underway op u k l evs)) (hq : hostQuiet u = true)
    (hsteps : (stepList u op).drop k = a :: b :: todo)
    (hwork : attempt a (onTurn op u k l evs) = .ok { onTurn op v k rest evs with trace := v.trace ++ evs ++ es }) :
    ranTo i (k + 1) s (underway op v (k + 1) rest (evs ++ es)) := by
  have hk : k + 1 < stepCount op := by
    have := stepCount_of_drop hsteps
    simp only [List.length_cons] at this
    omega
  have hstep := step_goes_on (blockNext_underway hq) rfl rfl (currentAction_underway hsteps) hk hwork
  rw [onTurn, List.drop_drop, List.append_assoc] at hstep
  exact ranTo_snoc h hstep

/-- The last step succeeds, and the operation completes (R142). -/
theorem ranTo_completes (h : ranTo i k s (underway op u k l evs)) (hq : hostQuiet u = true)
    (hsteps : (stepList u op).drop k = [a])
    (hwork : attempt a (onTurn op u k l evs) = .ok { onTurn op v k rest evs with trace := v.trace ++ evs ++ es }) :
    ranTo i (k + 1) s (completed v (k + 1) rest (evs ++ es)) := by
  have hk : stepCount op ≤ k + 1 := by
    have := stepCount_of_drop hsteps
    simp only [List.length_cons, List.length_nil] at this
    omega
  have hstep := step_completes (blockNext_underway hq) rfl rfl (currentAction_underway hsteps) hk hwork
  rw [onTurn, List.drop_drop, List.append_assoc] at hstep
  exact ranTo_snoc h hstep

/-- A step raises an error, and the operation is aborted at that step (R197). -/
theorem ranTo_aborts {e : ErrKind} (h : ranTo i k s (underway op u k l evs)) (hq : hostQuiet u = true)
    (hsteps : (stepList u op).drop k = a :: todo)
    (hwork : attempt a (onTurn op u k l evs) =
      .error (e, { onTurn op v k rest evs with trace := v.trace ++ evs ++ es })) :
    ranTo i (k + 1) s (aborted v (k + 1) rest (evs ++ es) (errorCode e) (errorSub e)) := by
  have hstep := step_aborts (blockNext_underway hq) rfl (currentAction_underway hsteps) hwork
  rw [onTurn, List.drop_drop, List.append_assoc] at hstep
  exact ranTo_snoc h hstep

end

/-- The write of a command other than `Wakeup`, which alone changes `SS` (R143 step 1). -/
theorem attempt_send_keeps_session {i : Instr} {s : State} {bs d : List Byte} {rest : List Answer}
    (hi : i ≠ .wakeup) (he : encode i = .ok bs) (ha : s.answers = .ok d :: rest) :
    attempt (.send i) s = .ok { s with answers := rest, trace := s.trace ++ [.write bs true] } := by
  rw [attempt_send_ok he ha, if_neg hi]

end Sys2Proof.Machine
end

section
/-! SUPPORT. UPGRADE and END_FAST (spec R145, R147) are one exchange with different operands: a command, its
fixed answer, the delay, the speed change, the new session state. Each of its ends is proved once. -/

namespace Sys2Proof.Machine

open Sys2Proof.Claims

/-- `op` sends `c`, whose bytes are `bs`, expects `r`, waits, sets the speed to `b` and enters `x`. -/
structure ChangesSpeed (op : HostOp) (c : Instr) (bs : List Byte) (r : FixedResponse) (b : LineSpeed)
    (x : SessionState) : Prop where
  steps : ∀ s : State, stepList s op = [.send c, .expect r, .delay, .setBaud b, .enter x]
  encodes : encode c = .ok bs
  notWakeup : c ≠ .wakeup
  notWrite : op ≠ .writeMem

theorem upgrade_changesSpeed : ChangesSpeed .upgrade .baudUp Config.baudUpCmd.bytes .ok .fast .fastMode :=
  ⟨fun _ => rfl, rfl, by decide, by decide⟩

theorem endFast_changesSpeed : ChangesSpeed .endFast .eot [0x04, 0x04] .eotEcho .default .identified :=
  ⟨fun _ => rfl, rfl, by decide, by decide⟩

namespace ChangesSpeed

variable {op : HostOp} {c : Instr} {bs : List Byte} {r : FixedResponse} {b : LineSpeed} {x : SessionState}
  {s : State} {d d' resp : List Byte} {rest : List Answer}

theorem drop_steps (hc : ChangesSpeed op c bs r b x) (s : State) (k : Nat) :
    (stepList s op).drop k = [Action.send c, .expect r, .delay, .setBaud b, .enter x].drop k := by
  rw [hc.steps]

variable (hc : ChangesSpeed op c bs r b x) (hf : free s) (hacc : acceptedIn op s.ss = true)
include hc hf hacc

theorem starts : ranTo (opInstr op) 0 s (underway op s 0 s.answers []) :=
  ranTo_starts hf hacc fun hop => absurd hop hc.notWrite

theorem write_fails (ha : s.answers = .err :: rest) :
    ranTo (opInstr op) 1 s (aborted s 1 rest [.write bs false] 1 0) :=
  ranTo_aborts (rest := rest) (hc.starts hf hacc) hf.2 (hc.drop_steps s 0) (attempt_send_err hc.encodes ha)

theorem sent (ha : s.answers = .ok d :: rest) :
    ranTo (opInstr op) 1 s (underway op s 1 rest [.write bs true]) :=
  ranTo_goes_on (hc.starts hf hacc) hf.2 (hc.drop_steps s 0) (attempt_send_keeps_session hc.notWakeup hc.encodes ha)

theorem read_fails (ha : s.answers = .ok d :: .err :: rest) :
    ranTo (opInstr op) 2 s
      (aborted s 2 rest [.write bs true, .read (expectedBytes r).length none] 1 0) :=
  ranTo_aborts (rest := rest) (hc.sent hf hacc ha) hf.2 (hc.drop_steps s 1) (attempt_expect_err rfl)

theorem response_differs (ha : s.answers = .ok d :: .ok resp :: rest) (hlen : resp.length = (expectedBytes r).length)
    (hne : resp ≠ expectedBytes r) :
    ranTo (opInstr op) 2 s
      (aborted s 2 rest [.write bs true, .read (expectedBytes r).length (some resp)]
        (errorCode (.validationError r)) (errorSub (.validationError r))) :=
  ranTo_aborts (rest := rest) (hc.sent hf hacc ha) hf.2 (hc.drop_steps s 1)
    ((attempt_expect_ok rfl hlen).trans (if_neg hne))

/-- The right answer came, and the line has settled: the speed change is next. -/
theorem answered (ha : s.answers = .ok d :: .ok (expectedBytes r) :: rest) :
    ranTo (opInstr op) 3 s (underway op s 3 rest
      [.write bs true, .read (expectedBytes r).length (some (expectedBytes r)), .delay 200]) :=
  have hread : ranTo (opInstr op) 2 s (underway op s 2 rest
      [.write bs true, .read (expectedBytes r).length (some (expectedBytes r))]) :=
    ranTo_goes_on (hc.sent hf hacc ha) hf.2 (hc.drop_steps s 1) ((attempt_expect_ok rfl rfl).trans (if_pos rfl))
  ranTo_goes_on hread hf.2 (hc.drop_steps s 2) (attempt_delay _)

/-- After a failed speed change `BAUD` is a free value (R32). -/
theorem setBaud_fails (ha : s.answers = .ok d :: .ok (expectedBytes r) :: .err :: rest) :
    ranTo (opInstr op) 4 s
      { aborted { s with draws := s.draws + 1 } 4 rest
          [.write bs true, .read (expectedBytes r).length (some (expectedBytes r)), .delay 200,
            .setBaud (baudRate b) false] 1 0
        with baud := Config.freeSpeed s.draws } :=
  ranTo_aborts (v := { s with draws := s.draws + 1, baud := Config.freeSpeed s.draws }) (hc.answered hf hacc ha) hf.2
    (hc.drop_steps s 3) (attempt_setBaud_err rfl)

theorem succeeds (ha : s.answers = .ok d :: .ok (expectedBytes r) :: .ok d' :: rest) :
    ranTo (opInstr op) 5 s
      { completed s 5 rest
          [.write bs true, .read (expectedBytes r).length (some (expectedBytes r)), .delay 200,
            .setBaud (baudRate b) true]
        with ss := x, baud := b } :=
  have hset : ranTo (opInstr op) 4 s (underway op { s with baud := b } 4 rest
      [.write bs true, .read (expectedBytes r).length (some (expectedBytes r)), .delay 200,
        .setBaud (baudRate b) true]) :=
    ranTo_goes_on (hc.answered hf hacc ha) hf.2 (hc.drop_steps s 3) (attempt_setBaud_ok rfl)
  ranTo_completes (v := { s with baud := b, ss := x }) (es := []) hset hf.2 (hc.drop_steps _ 4)
    (by rw [List.append_nil]; rfl)

end ChangesSpeed

/-! ### The obligations of the family -/

/-- Settles O21: UPGRADE is a speed change, accepted in Identified. -/
theorem upgradeRunsToFastMode : Obligations.UpgradeRunsToFastMode := by
  intro s d1 d4 r rest hf hss
  have hc := upgrade_changesSpeed
  have hacc : acceptedIn .upgrade s.ss = true := decide_eq_true hss
  exact ⟨hc.write_fails hf hacc, hc.read_fails hf hacc, hc.response_differs hf hacc, hc.setBaud_fails hf hacc,
    hc.succeeds hf hacc⟩

/-- Settles O22: END_FAST is a speed change, accepted in FastMode; its echo is compared before the speed is set. -/
theorem endFastRunsBackToIdentified : Obligations.EndFastRunsBackToIdentified := by
  intro s d1 d4 r rest hf hss
  have hc := endFast_changesSpeed
  have hacc : acceptedIn .endFast s.ss = true := decide_eq_true hss
  exact ⟨hc.write_fails hf hacc, hc.read_fails hf hacc, hc.response_differs hf hacc, hc.setBaud_fails hf hacc,
    hc.succeeds hf hacc⟩

end Sys2Proof.Machine
end

section
/-! SUPPORT. The ordinary operations (spec/44_commands.md) all send one command and then read one answer, a fixed
response or a packet: each end of such an exchange is proved once, for every operation that has it. -/

namespace Sys2Proof.Machine

open Sys2Proof.Claims

/-! ### A stored payload -/

theorem received_storePayload {p : List Byte} (hp : p.length ≤ 255) (s : State) : received p (storePayload p s) :=
  ⟨storePayload_prefix p _ hp, lengthByte_toNat hp⟩

/-- The payload a decode step takes is the one received (R134). -/
theorem receivedPayload_of_received {p : List Byte} {s : State} (h : received p s) : receivedPayload s = p := by
  obtain ⟨hbytes, hlen⟩ := h
  rw [receivedPayload, hlen, hbytes]

theorem frameSub_eq_frameCode (k : FrameErr) : frameSub k = frameCode k := by
  cases k <;> rfl

/-! ### Send a command, read its answer -/

/-- The idle block `s` accepts `op`, which first sends `c`, whose bytes are `bs`, and then does `a`, a read;
`todo` are the steps after these two. -/
structure Exchanges (s : State) (op : HostOp) (c : Instr) (bs : List Byte) (a : Action) (todo : List Action) :
    Prop where
  idle : free s
  accepted : acceptedIn op s.ss = true
  fits : op = .writeMem → s.vlen.toNat ≤ 255
  steps : stepList s op = .send c :: a :: todo
  encodes : encode c = .ok bs
  notWakeup : c ≠ .wakeup

namespace Exchanges

variable {s : State} {op : HostOp} {c : Instr} {bs d f p : List Byte} {a next : Action} {todo : List Action}
  {r : FixedResponse} {n : Nat} {rest : List Answer}

theorem drop_steps (hx : Exchanges s op c bs a todo) (k : Nat) :
    (stepList s op).drop k = (Action.send c :: a :: todo).drop k := by
  rw [hx.steps]

theorem starts (hx : Exchanges s op c bs a todo) : ranTo (opInstr op) 0 s (underway op s 0 s.answers []) :=
  ranTo_starts hx.idle hx.accepted hx.fits

theorem write_fails (hx : Exchanges s op c bs a todo) (ha : s.answers = .err :: rest) :
    ranTo (opInstr op) 1 s (aborted s 1 rest [.write bs false] 1 0) :=
  ranTo_aborts (rest := rest) hx.starts hx.idle.2 (hx.drop_steps 0) (attempt_send_err hx.encodes ha)

theorem sent (hx : Exchanges s op c bs a todo) (ha : s.answers = .ok d :: rest) :
    ranTo (opInstr op) 1 s (underway op s 1 rest [.write bs true]) :=
  ranTo_goes_on hx.starts hx.idle.2 (hx.drop_steps 0) (attempt_send_keeps_session hx.notWakeup hx.encodes ha)

/-! A fixed response (R130 to R133). -/

theorem response_fails (hx : Exchanges s op c bs (.expect r) todo) (ha : s.answers = .ok d :: .err :: rest) :
    ranTo (opInstr op) 2 s (aborted s 2 rest [.write bs true, .read (expectedBytes r).length none] 1 0) :=
  ranTo_aborts (rest := rest) (hx.sent ha) hx.idle.2 (hx.drop_steps 1) (attempt_expect_err rfl)

theorem response_differs (hx : Exchanges s op c bs (.expect r) todo) (ha : s.answers = .ok d :: .ok f :: rest)
    (hlen : f.length = (expectedBytes r).length) (hne : f ≠ expectedBytes r) :
    ranTo (opInstr op) 2 s
      (aborted s 2 rest [.write bs true, .read (expectedBytes r).length (some f)]
        (errorCode (.validationError r)) (errorSub (.validationError r))) :=
  ranTo_aborts (rest := rest) (hx.sent ha) hx.idle.2 (hx.drop_steps 1)
    ((attempt_expect_ok rfl hlen).trans (if_neg hne))

theorem response_completes (hx : Exchanges s op c bs (.expect r) [])
    (ha : s.answers = .ok d :: .ok (expectedBytes r) :: rest) :
    ranTo (opInstr op) 2 s
      (completed s 2 rest [.write bs true, .read (expectedBytes r).length (some (expectedBytes r))]) :=
  ranTo_completes (hx.sent ha) hx.idle.2 (hx.drop_steps 1) ((attempt_expect_ok rfl rfl).trans (if_pos rfl))

/-! A packet of `n` bytes (R134). -/

theorem packet_fails (hx : Exchanges s op c bs (.packet n) todo) (ha : s.answers = .ok d :: .err :: rest) :
    ranTo (opInstr op) 2 s (aborted s 2 rest [.write bs true, .read (n + 3) none] 1 0) :=
  ranTo_aborts (rest := rest) (hx.sent ha) hx.idle.2 (hx.drop_steps 1) (attempt_packet_err rfl)

theorem packet_rejected {k : FrameErr} (hx : Exchanges s op c bs (.packet n) todo)
    (ha : s.answers = .ok d :: .ok f :: rest) (hlen : f.length = n + 3) (hk : deserialize f = .error k) :
    ranTo (opInstr op) 2 s (aborted s 2 rest [.write bs true, .read (n + 3) (some f)] 2 (frameCode k)) :=
  frameSub_eq_frameCode k ▸
    ranTo_aborts (rest := rest) (hx.sent ha) hx.idle.2 (hx.drop_steps 1) (attempt_packet_bad rfl hlen hk)

theorem packet_completes (hx : Exchanges s op c bs (.packet n) []) (ha : s.answers = .ok d :: .ok f :: rest)
    (hlen : f.length = n + 3) (hp : deserialize f = .ok p) :
    ranTo (opInstr op) 2 s (completed (storePayload p s) 2 rest [.write bs true, .read (n + 3) (some f)]) :=
  ranTo_completes (v := storePayload p s) (hx.sent ha) hx.idle.2 (hx.drop_steps 1) (attempt_packet_ok rfl hlen hp)

/-- The payload is stored, and the step `next` is to follow. -/
theorem packet_stored (hx : Exchanges s op c bs (.packet n) (next :: todo))
    (ha : s.answers = .ok d :: .ok f :: rest) (hlen : f.length = n + 3) (hp : deserialize f = .ok p) :
    ranTo (opInstr op) 2 s (underway op (storePayload p s) 2 rest [.write bs true, .read (n + 3) (some f)]) :=
  ranTo_goes_on (v := storePayload p s) (hx.sent ha) hx.idle.2 (hx.drop_steps 1) (attempt_packet_ok rfl hlen hp)

end Exchanges

/-! ### A last step without an event, such as a decode step -/

section
variable {i : Instr} {op : HostOp} {s u v : State} {k : Nat} {l : List Answer} {evs : List Event} {a : Action}

theorem ranTo_completes_silently (h : ranTo i k s (underway op u k l evs)) (hq : hostQuiet u = true)
    (hsteps : (stepList u op).drop k = [a]) (hwork : attempt a (onTurn op u k l evs) = .ok (onTurn op v k l evs)) :
    ranTo i (k + 1) s (completed v (k + 1) l evs) := by
  have hdone := ranTo_completes (v := v) (rest := l) (es := []) h hq hsteps (by rw [hwork, List.append_nil]; rfl)
  rwa [List.append_nil] at hdone

theorem ranTo_aborts_silently {e : ErrKind} (h : ranTo i k s (underway op u k l evs)) (hq : hostQuiet u = true)
    (hsteps : (stepList u op).drop k = [a])
    (hwork : attempt a (onTurn op u k l evs) = .error (e, onTurn op u k l evs)) :
    ranTo i (k + 1) s (aborted u (k + 1) l evs (errorCode e) (errorSub e)) := by
  have hend := ranTo_aborts (v := u) (rest := l) (es := []) h hq hsteps (by rw [hwork, List.append_nil]; rfl)
  rwa [List.append_nil] at hend

end

/-! ### The operations' exchanges -/

section
variable {s : State} (hf : free s) (ho : ordinary s)
include hf ho

theorem focus_exchanges :
    Exchanges s .focus .cmdFocus [0x01, 0x20, 0x86, 0, 0, 0, 0, 0, 0x03] (.expect .ok) [] :=
  ⟨hf, decide_eq_true ho, nofun, rfl, rfl, nofun⟩

theorem shoot_exchanges :
    Exchanges s .shoot .cmdShoot [0x01, 0x20, 0x85, 0, 0, 0, 0, 0, 0x03] (.expect .ok) [] :=
  ⟨hf, decide_eq_true ho, nofun, rfl, rfl, nofun⟩

theorem readMem_exchanges :
    Exchanges s .readMem (readMemoryOperands s) (readBytes s.aSpace s.aAddr s.aLen) (.packet s.aLen.toNat) [] := by
  obtain ⟨-, -, -, -, -, hread, -⟩ := commandBytes
  exact ⟨hf, decide_eq_true ho, nofun, rfl, hread .., nofun⟩

theorem writeMem_exchanges (hv : s.vlen.toNat ≤ 255) :
    Exchanges s .writeMem (writeToMemoryOperands s) (writeBytes s.aAddr (pbufPrefix s s.vlen.toNat)) (.expect .ok)
      [] := by
  obtain ⟨-, -, -, -, -, -, hwrite, -⟩ := commandBytes
  have hlen : (pbufPrefix s s.vlen.toNat).length ≤ 255 := by
    rw [pbufPrefix_length]
    exact min_le_right ..
  exact ⟨hf, decide_eq_true ho, fun _ => hv, rfl, hwrite _ _ hlen, nofun⟩

theorem readMemoInfo_exchanges :
    Exchanges s .readMemoInfo .readMemoHolderInfo Config.memoInfoCmd.bytes (.packet 4) [.decode .memoInfo] :=
  ⟨hf, decide_eq_true ho, nofun, rfl, rfl, nofun⟩

/-- A `VLEN` above 255 is refused before any step, in either session state (R141, R160). -/
theorem writeMem_refused (hv : 255 < s.vlen.toNat) : exec .writeMem s = .next (refused 4 s) := by
  have hacc : acceptedIn .writeMem s.ss = true := decide_eq_true ho
  have hbusy := hf.1
  rcases writeOp_cases .writeMem s with ⟨hb, -⟩ | ⟨-, hna, -⟩ | ⟨-, -, -, -, hrefuse⟩ | ⟨-, -, hfits, -⟩
  · exact absurd hb (by simp [hbusy])
  · exact absurd hna (by simp [hacc])
  · refine (exec_opInstr .writeMem s).trans (congrArg _ (hrefuse.trans ?_))
    simp [refuse, setRefused, clearErrors, refused, hbusy, errorCode]
  · exact absurd (hfits rfl) (by omega)

end

/-! ### The memo info payload -/

/-- The word of a high and a low byte, by arithmetic (R170). -/
theorem word_toNat (hi lo : Byte) : (hi ++ lo : Half).toNat = lo.toNat + 256 * hi.toNat := by
  have h : (hi ++ lo : Half).toNat = hi.toNat <<< 8 ||| lo.toNat := BitVec.toNat_append hi lo
  rw [h, ← Nat.shiftLeft_add_eq_or_of_lt lo.isLt, Nat.shiftLeft_eq]
  omega

theorem nibbles_word (hi lo : Byte) :
    nibbles (hi ++ lo) = [lo.toNat % 16, lo.toNat / 16, hi.toNat % 16, hi.toNat / 16] := by
  have hlo := lo.isLt
  have hhi := hi.isLt
  simp only [nibbles, BitVec.extractLsb'_toNat, word_toNat, Nat.shiftRight_eq_div_pow, List.cons.injEq, and_true]
  omega

/-- The nibbles of a word's two bytes are decimal digits (R171). -/
def IsBcd (lo hi : Byte) : Prop :=
  lo.toNat % 16 ≤ 9 ∧ lo.toNat / 16 ≤ 9 ∧ hi.toNat % 16 ≤ 9 ∧ hi.toNat / 16 ≤ 9

/-- The decimal number of these digits. -/
def bcdValue (lo hi : Byte) : Nat :=
  lo.toNat % 16 + lo.toNat / 16 * 10 + hi.toNat % 16 * 100 + hi.toNat / 16 * 1000

theorem bcdValue_lt {lo hi : Byte} (h : IsBcd lo hi) : bcdValue lo hi < 10000 := by
  obtain ⟨h0, h1, h2, h3⟩ := h
  unfold bcdValue
  omega

theorem readBcd4_of_isBcd {lo hi : Byte} (h : IsBcd lo hi) : readBcd4 (hi ++ lo) = .ok (bcdValue lo hi) := by
  obtain ⟨h0, h1, h2, h3⟩ := h
  have hval : ofDigits (nibbles (hi ++ lo)) = bcdValue lo hi := by
    simp only [nibbles_word, ofDigits, bcdValue]
    omega
  rw [readBcd4, if_pos (by simp [nibbles_word, h0, h1, h2, h3]), hval]

theorem readBcd4_of_not_isBcd {lo hi : Byte} (h : ¬ IsBcd lo hi) : readBcd4 (hi ++ lo) = .error .bcdError :=
  if_neg fun hall => h (by simpa [nibbles_word, IsBcd] using hall)

/-- The two words of the payload, low bytes first (R176). -/
theorem decodeMemoInfo_words (a b c e : Byte) :
    decodeMemoInfo [a, b, c, e] = (do
      let rollId ← readBcd4 (b ++ a)
      pure (rollId, e ++ c)) := rfl

theorem decodeMemoInfo_of_isBcd {a b : Byte} (c e : Byte) (h : IsBcd a b) :
    decodeMemoInfo [a, b, c, e] = .ok (bcdValue a b, e ++ c) := by
  rw [decodeMemoInfo_words, readBcd4_of_isBcd h]
  rfl

theorem decodeMemoInfo_of_not_isBcd {a b : Byte} (c e : Byte) (h : ¬ IsBcd a b) :
    decodeMemoInfo [a, b, c, e] = .error .bcdError := by
  rw [decodeMemoInfo_words, readBcd4_of_not_isBcd h]
  rfl

theorem attempt_memoInfo_ok {s : State} {p : List Byte} {id : Nat} {n : Half} (hp : received p s)
    (h : decodeMemoInfo p = .ok (id, n)) :
    attempt (.decode .memoInfo) s = .ok { s with rollId := BitVec.ofNat 16 id, bytesToRead := n } := by
  simp only [attempt, receivedPayload_of_received hp, h]

theorem attempt_memoInfo_error {s : State} {p : List Byte} {k : ErrKind} (hp : received p s)
    (h : decodeMemoInfo p = .error k) : attempt (.decode .memoInfo) s = .error (k, s) := by
  simp only [attempt, receivedPayload_of_received hp, h]

/-! ### The obligations of the family -/

/-- Settles O24: both operations exchange nine bytes for an OK. -/
theorem focusAndShootExchange : Obligations.FocusAndShootExchange := by
  rintro s i opc d1 r rest hf ho (⟨rfl, rfl⟩ | ⟨rfl, rfl⟩)
  · have hx := focus_exchanges hf ho
    exact ⟨hx.write_fails, hx.response_fails, hx.response_differs, hx.response_completes⟩
  · have hx := shoot_exchanges hf ho
    exact ⟨hx.write_fails, hx.response_fails, hx.response_differs, hx.response_completes⟩

/-- Settles O25: the accepted payload is stored by the last step, so the completed state has it. -/
theorem readMemExchange : Obligations.ReadMemExchange := by
  intro s d1 f rest hf ho
  have hx := readMem_exchanges hf ho
  refine ⟨hx.write_fails, hx.packet_fails, fun ha hlen => ⟨fun k => hx.packet_rejected ha hlen, fun p hp => ?_⟩⟩
  have hplen : p.length = s.aLen.toNat := by
    have := (deserialize_length hp).2
    omega
  have hrec := received_storePayload (p := p) (by omega) s
  exact ⟨_, hx.packet_completes ha hlen hp, hrec, hplen, rfl⟩

/-- Settles O27: `VLEN` decides alone whether the write is refused or its bytes are exchanged for an OK. -/
theorem writeMemExchange : Obligations.WriteMemExchange := by
  intro s v d1 r rest hf ho
  refine ⟨writeMem_refused hf ho, ?_⟩
  rintro hv rfl
  have hx := writeMem_exchanges hf ho hv
  have hlen : (pbufPrefix s s.vlen.toNat).length = s.vlen.toNat := (pbufPrefix_length ..).trans (min_eq_left hv)
  exact ⟨hlen, hx.write_fails, hx.response_fails, hx.response_differs, hx.response_completes⟩

/-- Settles O28: the payload is stored before its digits are looked at, so a bad digit aborts an exchange that was
complete. -/
theorem readMemoInfoExchange : Obligations.ReadMemoInfoExchange := by
  intro s d1 f rest hf ho
  have hx := readMemoInfo_exchanges hf ho
  refine ⟨hx.write_fails, hx.packet_fails,
    fun ha hlen => ⟨fun k => hx.packet_rejected ha hlen, fun a b c e hp => ?_⟩⟩
  have hrec := received_storePayload (p := [a, b, c, e]) (by simp) s
  have hstored := hx.packet_stored ha hlen hp
  refine ⟨fun (hbad : ¬ IsBcd a b) => ?bad, fun (hgood : IsBcd a b) => ?good⟩
  case bad =>
    exact ranTo_aborts_silently hstored hf.2 rfl (attempt_memoInfo_error hrec (decodeMemoInfo_of_not_isBcd c e hbad))
  case good =>
    have hdone := ranTo_completes_silently hstored hf.2 rfl
      (v := { storePayload [a, b, c, e] s with rollId := BitVec.ofNat 16 (bcdValue a b), bytesToRead := e ++ c })
      (attempt_memoInfo_ok hrec (decodeMemoInfo_of_isBcd c e hgood))
    have hroll : (BitVec.ofNat 16 (bcdValue a b)).toNat = bcdValue a b :=
      (BitVec.toNat_ofNat ..).trans (Nat.mod_eq_of_lt (lt_trans (bcdValue_lt hgood) (by decide)))
    exact ⟨_, hdone, hrec, hroll, word_toNat e c, rfl⟩

end Sys2Proof.Machine
end

section
/-! SUPPORT. The telemetry decoders (spec/45_telemetry.md R170 to R175) on the payloads they are given, and the three
telemetry queries (R177 to R179): each is an exchange of a packet followed by one decode step. -/

namespace Sys2Proof.Machine

open Sys2Proof.Claims

/-! ### Words -/

theorem readU16le_of_getElem? {b : List Byte} {o : Nat} {lo hi : Byte} (hlo : b[o]? = some lo)
    (hhi : b[o + 1]? = some hi) : readU16le b o = .ok (hi ++ lo) := by
  simp only [readU16le, hlo, hhi]

theorem readU16le_eq_rangeError_iff {b : List Byte} {o : Nat} :
    readU16le b o = .error .rangeError ↔ b.length ≤ o + 1 := by
  rcases Nat.lt_or_ge (o + 1) b.length with hin | hout
  · have hword := readU16le_of_getElem? (List.getElem?_eq_getElem (by omega : o < b.length))
      (List.getElem?_eq_getElem hin)
    simp [hword, hin]
  · simp [readU16le, hout]

/-- A word is its two bytes. -/
theorem exists_word (v : Half) : ∃ hi lo : Byte, v = hi ++ lo :=
  ⟨highByte v, lowByte v, (joinBytes_high_low v).symm⟩

/-- The digits of a word's hexadecimal numeral are the nibbles of its two bytes. -/
theorem hexDigits_word (hi lo : Byte) :
    (hi ++ lo : Half).toNat / 16 ^ 0 % 16 = lo.toNat % 16 ∧ (hi ++ lo : Half).toNat / 16 ^ 1 % 16 = lo.toNat / 16 ∧
    (hi ++ lo : Half).toNat / 16 ^ 2 % 16 = hi.toNat % 16 ∧
    (hi ++ lo : Half).toNat / 16 ^ 3 % 16 = hi.toNat / 16 := by
  have hlo := lo.isLt
  have hhi := hi.isLt
  rw [word_toNat]
  omega

/-! ### Settings -/

/-- The flag test of R172 looks at bit 6. -/
theorem and_flag_eq_zero_iff (x : Byte) : x &&& 0x40 = 0 ↔ x.getLsbD 6 = false := by
  have hmask : x &&& 0x40 = if x.getLsbD 6 then 0x40 else 0 := BitVec.and_twoPow x 6
  rw [hmask]
  cases x.getLsbD 6 <;> decide

/-- The four settings with the values `MH_SETTING` and `MH_BPF` take for them (R34, R172, R173). -/
theorem decodeSetting_known {x : Byte} {m : BitVec 2} {n : BitVec 3}
    (h : (x.getLsbD 6 = false ∧ m = 0 ∧ n = 0) ∨ (x = 0x45 ∧ m = 1 ∧ n = 2) ∨ (x = 0x4E ∧ m = 2 ∧ n = 4) ∨
      (x = 0x5F ∧ m = 3 ∧ n = 6)) :
    ∃ k, decodeSetting x = .ok k ∧ settingCode k = m ∧ bytesPerFrame k = n := by
  rcases h with ⟨hflag, rfl, rfl⟩ | ⟨rfl, rfl, rfl⟩ | ⟨rfl, rfl, rfl⟩ | ⟨rfl, rfl, rfl⟩
  · exact ⟨.doNotStore, if_pos ((and_flag_eq_zero_iff x).mpr hflag), rfl, rfl⟩
  · exact ⟨.minimum, rfl, rfl, rfl⟩
  · exact ⟨.intermediate, rfl, rfl, rfl⟩
  · exact ⟨.full, rfl, rfl, rfl⟩

theorem decodeSetting_unknown {x : Byte} (hflag : x.getLsbD 6 = true) (h45 : x ≠ 0x45) (h4E : x ≠ 0x4E)
    (h5F : x ≠ 0x5F) : decodeSetting x = .error .settingError := by
  have hset : ¬ x &&& 0x40 = 0 := by
    rw [and_flag_eq_zero_iff, hflag]
    decide
  rw [decodeSetting, if_neg hset, if_neg h45, if_neg h4E, if_neg h5F]

/-! ### The decode steps -/

section
variable {s : State}

theorem attempt_ring {a b c e : Byte} (hp : received [a, b, c, e] s) :
    attempt (.decode .ring) s = .ok { s with ringStart := b ++ a, ringEnd := e ++ c } := by
  have hpair : decodeRing [a, b, c, e] = .ok (b ++ a, e ++ c) := rfl
  simp only [attempt, receivedPayload_of_received hp, hpair]

theorem attempt_mhAddrs {a b c e g h : Byte} (hp : received [a, b, c, e, g, h] s) :
    attempt (.decode .mhAddrs) s = .ok { s with mhCurrent := b ++ a, mhStart := e ++ c, mhRollStart := h ++ g } := by
  have htriple : decodeMhAddrs [a, b, c, e, g, h] = .ok (b ++ a, e ++ c, h ++ g) := rfl
  simp only [attempt, receivedPayload_of_received hp, htriple]

theorem attempt_mhSetting_ok {x : Byte} {k : MemoHolderSetting} (hp : received [x] s) (h : decodeSetting x = .ok k) :
    attempt (.decode .mhSetting) s = .ok { s with mhSetting := settingCode k, mhBpf := bytesPerFrame k } := by
  simp only [attempt, receivedPayload_of_received hp, List.head?_cons, h]

theorem attempt_mhSetting_error {x : Byte} {k : ErrKind} (hp : received [x] s) (h : decodeSetting x = .error k) :
    attempt (.decode .mhSetting) s = .error (k, s) := by
  simp only [attempt, receivedPayload_of_received hp, List.head?_cons, h]

end

/-! ### The queries' exchanges -/

section
variable {s : State} (hf : free s) (ho : ordinary s)
include hf ho

theorem getRingAddrs_exchanges :
    Exchanges s .getRingAddrs ringQuery [0x01, 0x20, 0x80, Config.telemSpace, 0xFD, 0x00, 0x00, 0x04, 0x03]
      (.packet 4) [.decode .ring] :=
  ⟨hf, decide_eq_true ho, nofun, rfl, rfl, nofun⟩

theorem getMhAddrs_exchanges :
    Exchanges s .getMhAddrs mhAddrsQuery [0x01, 0x20, 0x80, Config.telemSpace, 0xFD, 0x42, 0x00, 0x06, 0x03]
      (.packet 6) [.decode .mhAddrs] :=
  ⟨hf, decide_eq_true ho, nofun, rfl, rfl, nofun⟩

theorem getMhSetting_exchanges :
    Exchanges s .getMhSetting mhSettingQuery [0x01, 0x20, 0x80, Config.telemSpace, 0xFD, 0x40, 0x00, 0x01, 0x03]
      (.packet 1) [.decode .mhSetting] :=
  ⟨hf, decide_eq_true ho, nofun, rfl, rfl, nofun⟩

end

/-! ### The obligations of the family -/

/-- Settles O16: a word is read exactly where two bytes lie. -/
theorem littleEndianWord : Obligations.LittleEndianWord := fun _ _ =>
  ⟨fun x y hx hy => ⟨y ++ x, readU16le_of_getElem? hx hy, word_toNat y x⟩, readU16le_eq_rangeError_iff.symm⟩

/-- Settles O17: the hexadecimal digits are the nibbles of the word's two bytes. -/
theorem bcdWord : Obligations.BcdWord := by
  intro v
  obtain ⟨hi, lo, rfl⟩ := exists_word v
  obtain ⟨h0, h1, h2, h3⟩ := hexDigits_word hi lo
  simp only [h0, h1, h2, h3]
  exact ⟨fun hgood : IsBcd lo hi => ⟨readBcd4_of_isBcd hgood, Nat.le_of_lt_succ (bcdValue_lt hgood)⟩,
    readBcd4_of_not_isBcd⟩

/-- Settles O29: the two words of the packet, low bytes first, are the bounds of the ring. -/
theorem getRingAddrsExchange : Obligations.GetRingAddrsExchange := by
  intro s d1 f rest hf ho
  have hx := getRingAddrs_exchanges hf ho
  refine ⟨hx.write_fails, hx.packet_fails,
    fun ha hlen => ⟨fun k => hx.packet_rejected ha hlen, fun a b c e hp => ?_⟩⟩
  have hrec := received_storePayload (p := [a, b, c, e]) (by simp) s
  have hdone := ranTo_completes_silently (hx.packet_stored ha hlen hp) hf.2 rfl
    (v := { storePayload [a, b, c, e] s with ringStart := b ++ a, ringEnd := e ++ c }) (attempt_ring hrec)
  exact ⟨_, hdone, hrec, word_toNat b a, word_toNat e c, rfl⟩

/-- Settles O30: the three words of the packet in the order of R175, `current` first. -/
theorem getMhAddrsExchange : Obligations.GetMhAddrsExchange := by
  intro s d1 f rest hf ho
  have hx := getMhAddrs_exchanges hf ho
  refine ⟨hx.write_fails, hx.packet_fails,
    fun ha hlen => ⟨fun k => hx.packet_rejected ha hlen, fun a b c e g h hp => ?_⟩⟩
  have hrec := received_storePayload (p := [a, b, c, e, g, h]) (by simp) s
  have hdone := ranTo_completes_silently (hx.packet_stored ha hlen hp) hf.2 rfl
    (v := { storePayload [a, b, c, e, g, h] s with mhCurrent := b ++ a, mhStart := e ++ c, mhRollStart := h ++ g })
    (attempt_mhAddrs hrec)
  exact ⟨_, hdone, hrec, word_toNat b a, word_toNat e c, word_toNat h g, rfl⟩

/-- Settles O31: the payload is stored before its setting is looked at, so an unknown one aborts an exchange that was
complete. -/
theorem getMhSettingExchange : Obligations.GetMhSettingExchange := by
  intro s d1 f rest hf ho
  have hx := getMhSetting_exchanges hf ho
  refine ⟨hx.write_fails, hx.packet_fails, fun ha hlen => ⟨fun k => hx.packet_rejected ha hlen, fun x hp => ?_⟩⟩
  have hrec := received_storePayload (p := [x]) (by simp) s
  have hstored := hx.packet_stored ha hlen hp
  refine ⟨fun m n hknown => ?known, fun hflag h45 h4E h5F => ?unknown⟩
  case known =>
    obtain ⟨k, hk, rfl, rfl⟩ := decodeSetting_known hknown
    have hdone := ranTo_completes_silently hstored hf.2 rfl
      (v := { storePayload [x] s with mhSetting := settingCode k, mhBpf := bytesPerFrame k })
      (attempt_mhSetting_ok hrec hk)
    exact ⟨_, hdone, hrec, rfl⟩
  case unknown =>
    exact ranTo_aborts_silently hstored hf.2 rfl
      (attempt_mhSetting_error hrec (decodeSetting_unknown hflag h45 h4E h5F))

end Sys2Proof.Machine
end

section
/-! SUPPORT. Every operation ends (spec/70_reset_and_hazards.md R234): while the host waits, a running operation ends
with its next step or has one step less to go. -/

namespace Sys2Proof.Machine

open Sys2Proof.Claims

/-- While the host waits, `op` is about to run the step after its first `k`. -/
structure HasDone (op : HostOp) (k : Nat) (s : State) : Prop where
  quiet : hostQuiet s = true
  busy : s.status.busy = true
  seq : s.seq = ⟨some op, k + 1⟩

theorem currentAction_of_seq {s : State} {op : HostOp} {k : Nat} (hs : s.seq = ⟨some op, k + 1⟩)
    (hk : k < stepCount op) : ∃ a, currentAction s = some a := by
  have hlen : k < (stepList s op).length := by rwa [stepList_length]
  exact ⟨(stepList s op)[k], by simp [currentAction, hs]⟩

/-- A step of a running operation ends it or leads to the next step of its list, whatever the transport answers
(R33, R142, R197). -/
theorem HasDone.step_ends_or_goes_on {op : HostOp} {k : Nat} {s : State} (h : HasDone op k s)
    (hk : k < stepCount op) :
    ∃ t, step s = .next t ∧ (t.status.busy = false ∨ k + 1 < stepCount op ∧ HasDone op (k + 1) t) := by
  obtain ⟨a, ha⟩ := currentAction_of_seq h.seq hk
  have hblock := hostQuiet_block h.quiet
  rcases hu : attempt a { s with turns := s.turns.drop 1 } with ⟨e, u⟩ | u
  case error => exact ⟨_, step_aborts hblock h.busy ha hu, .inl rfl⟩
  case ok =>
    have hc := attempt_sameControl a { s with turns := s.turns.drop 1 }
    rw [hu] at hc
    rcases Nat.lt_or_ge (k + 1) (stepCount op) with hmore | hlast
    · have hnext := step_goes_on hblock h.busy h.seq ha hmore hu
      have hbusy : u.status.busy = true := (congrArg Status.busy hc.status).trans h.busy
      exact ⟨_, hnext, .inr ⟨hmore, hostQuiet_drop h.quiet hc.turns, hbusy, rfl⟩⟩
    · exact ⟨_, step_completes hblock h.busy h.seq ha hlast hu, .inl rfl⟩

/-- With `n` steps of its list to go, an operation ends within `n` steps. -/
theorem HasDone.ends {op : HostOp} {k n : Nat} {s : State} (h : HasDone op k s) (hk : k < stepCount op)
    (hn : stepCount op ≤ k + n) : ∃ m t, m ≤ n ∧ runs m s t ∧ t.status.busy = false := by
  induction n generalizing k s with
  | zero => omega
  | succ n ih =>
    obtain ⟨u, hstep, hidle | ⟨hmore, hnext⟩⟩ := h.step_ends_or_goes_on hk
    · exact ⟨1, u, by omega, run_succ hstep, hidle⟩
    · obtain ⟨m, t, hm, hruns, hidle⟩ := ih hnext hmore (by omega)
      exact ⟨m + 1, t, by omega, (run_succ hstep).trans hruns, hidle⟩

/-! ### The obligation of the family -/

/-- Settles O50: the invariant puts a busy block at a step of its operation's list, which has at most 6. -/
theorem everyOperationEnds : Obligations.EveryOperationEnds := by
  intro s hinv hq
  cases hb : s.status.busy with
  | false => exact ⟨0, s, by omega, rfl, hb⟩
  | true =>
    obtain ⟨op, hcur, hfirst, hlast⟩ := hinv.busySeq hb
    rw [stepList_length] at hlast
    obtain ⟨k, hk⟩ := Nat.exists_eq_add_of_le' hfirst
    have hat : HasDone op k s := ⟨hq, hb, by rw [← hcur, ← hk]⟩
    have hsix := stepCount_le op
    exact hat.ends (by omega) (by omega)

end Sys2Proof.Machine
end

section
/-! SUPPORT. Decoding and encoding are inverse to each other, port by port (spec/30_encoding.md), the length of a
command (R89), and the checksum's datapath (spec/40_packet_codec.md R111). -/

namespace Sys2Proof.Machine

open Sys2Proof.Claims

/-! ### What decodes is an encoding -/

/-- The bytes are those of the well-formed instruction `i`, at the port `p`. -/
def EncodesAs (p : Port) (i : Instr) (bs : List Byte) : Prop :=
  i.wellFormed = true ∧ i.port = p ∧ encode i = .ok bs

theorem encodesAs_of_decodeOp {v : Byte} {i : Instr} (h : decodeOp v = .ok i) : EncodesAs .hostOp i [v] := by
  rcases decodeOp_cases v with ⟨op, hop, rfl⟩ | ⟨hillegal, -⟩
  · obtain rfl : opInstr op = i := Except.ok.inj (hop.symm.trans h)
    cases op <;> exact ⟨rfl, rfl, rfl⟩
  · exact absurd (hillegal.symm.trans h) nofun

theorem encodesAs_of_decodeWriteTail {a : Half} {n : Byte} {tail : List Byte} {i : Instr}
    (h : decodeWriteTail a n tail = .ok i) : EncodesAs .toDevice i (wrh8 a n ++ tail) := by
  simp only [decodeWriteTail] at h
  generalize slice tail 1 (n.toNat + 1) = v at h
  split_ifs at h with hpkt
  obtain ⟨hlen, rfl⟩ := hpkt
  cases h
  have hle : v.length ≤ 255 := by omega
  have hn : BitVec.ofNat 8 v.length = n := by rw [hlen, BitVec.ofNat_toNat, BitVec.setWidth_eq]
  exact ⟨decide_eq_true hle, rfl, by rw [encode_writeToMemory_of_le a hle, hn]⟩

theorem encodesAs_of_decodeFamily {opc space hi lo zero len : Byte} {tail : List Byte} {i : Instr}
    (h : decodeFamily opc space hi lo zero len tail = .ok i) :
    EncodesAs .toDevice i (Config.SOH :: Config.CMD_CLASS :: opc :: space :: hi :: lo :: zero :: len :: tail) := by
  rw [decodeFamily] at h
  split_ifs at h with hread hfix hwrite hfix hshoot hfix hfocus hfix
  · obtain ⟨rfl, rfl⟩ := hfix
    cases h
    exact ⟨rfl, rfl, by rw [hread, encode, cmd9, highByte_joinBytes, lowByte_joinBytes]⟩
  · obtain ⟨rfl, rfl⟩ := hfix
    have hw := encodesAs_of_decodeWriteTail h
    rw [wrh8, highByte_joinBytes, lowByte_joinBytes] at hw
    exact hwrite ▸ hw
  all_goals
    obtain ⟨hzero, rfl⟩ := hfix
    cases hzero
    cases h
    subst opc
    exact ⟨rfl, rfl, rfl⟩

theorem encodesAs_of_decodeFixedCommand {bs : List Byte} {i : Instr} (h : decodeFixedCommand bs = .ok i) :
    EncodesAs .toDevice i bs := by
  unfold decodeFixedCommand at h
  split_ifs at h with hwake hinq heot
  · subst hwake
    cases h
    exact ⟨rfl, rfl, rfl⟩
  · subst hinq
    cases h
    exact ⟨rfl, rfl, rfl⟩
  · subst heot
    cases h
    exact ⟨rfl, rfl, rfl⟩
  · split at h
    · split_ifs at h with hfamily
      obtain ⟨rfl, rfl⟩ := hfamily
      exact encodesAs_of_decodeFamily h
    · cases h

theorem encodesAs_of_decodeCommand {bs : List Byte} {i : Instr} (h : decodeCommand bs = .ok i) :
    EncodesAs .toDevice i bs := by
  rw [decodeCommand] at h
  split at h
  case h_1 j hfixed =>
    cases h
    exact encodesAs_of_decodeFixedCommand hfixed
  case h_2 =>
    split_ifs at h with hbaud hmemo
    · subst hbaud
      cases h
      exact ⟨rfl, rfl, rfl⟩
    · subst hmemo
      cases h
      exact ⟨rfl, rfl, rfl⟩

theorem encodesAs_of_decodeResponse {f : List Byte} {i : Instr} (h : decodeResponse f = .ok i) :
    EncodesAs .fromDevice i f := by
  rw [decodeResponse] at h
  split_ifs at h with hok heot hid
  · subst hok
    cases h
    exact ⟨rfl, rfl, rfl⟩
  · subst heot
    cases h
    exact ⟨rfl, rfl, rfl⟩
  · subst hid
    cases h
    exact ⟨rfl, rfl, rfl⟩
  · split at h
    · rename_i p hp
      split_ifs at h with hmax
      cases h
      obtain ⟨hmin, rfl⟩ := deserialize_eq_ok_iff.mp hp
      exact ⟨decide_eq_true ⟨hmin, hmax⟩, rfl, rfl⟩
    · cases h

theorem encodesAs_of_decode {p : Port} {bs : List Byte} {i : Instr} (h : decode p bs = .ok i) : EncodesAs p i bs := by
  cases p with
  | hostOp =>
    match bs with
    | [v] => exact encodesAs_of_decodeOp h
    | [] | _ :: _ :: _ => cases h
  | toDevice => exact encodesAs_of_decodeCommand h
  | fromDevice => exact encodesAs_of_decodeResponse h

/-! ### What is encoded decodes back -/

theorem decode_toDevice_of_fixed {bs : List Byte} {i : Instr} (h : decodeFixedCommand bs = .ok i) :
    decode .toDevice bs = .ok i := by
  simp only [decode, decodeCommand, h]

theorem decode_toDevice_of_not_fixed {bs : List Byte} (h : ∀ j, decodeFixedCommand bs ≠ .ok j)
    (hopen : bs = Config.baudUpCmd.bytes ∨ bs = Config.memoInfoCmd.bytes) :
    decode .toDevice bs = .ok (if bs = Config.baudUpCmd.bytes then .baudUp else .readMemoHolderInfo) := by
  cases hfixed : decodeFixedCommand bs with
  | ok j => exact absurd hfixed (h j)
  | error e =>
    simp only [decode, decodeCommand, hfixed]
    split_ifs with hbaud hmemo
    · rfl
    · rfl
    · exact absurd hopen (not_or.mpr ⟨hbaud, hmemo⟩)

/-- A frame begins with 0x02, which no fixed response does. -/
theorem decode_fromDevice_serialize {p : List Byte} (hmin : 1 ≤ p.length) (hmax : p.length ≤ Config.PAYLOAD_MAX) :
    decode .fromDevice (serialize p) = .ok (.dataPacket p) := by
  have hfirst : ∀ f : List Byte, f.head? ≠ some 0x02 → serialize p ≠ f := by
    rintro _ hf rfl
    exact hf (by rw [serialize_eq_cons]; rfl)
  have hdes : deserialize (serialize p) = .ok p := deserialize_eq_ok_iff.mpr ⟨hmin, rfl⟩
  simp only [decode, decodeResponse, hdes]
  rw [if_neg (hfirst _ (by decide)), if_neg (hfirst _ (by decide)), if_neg (hfirst _ (by decide)), if_pos hmax]

/-! ### The memo-holder query -/

/-- With the first two bytes of the `0x01 0x20` family, the third is none of its op codes (R122). -/
theorem memoInfoCmd_third_ne {opc : Byte} (htake : Config.memoInfoCmd.bytes.take 2 = [Config.SOH, Config.CMD_CLASS])
    (hopc : opc ∈ Config.familyOpCodes) : Config.memoInfoCmd.bytes[2]? ≠ some opc :=
  fun hthird => Config.memoInfo.distinctOpCode opc ((if_pos htake).trans hthird) hopc

theorem memoInfoCmd_ne_family {opc : Byte} (hopc : opc ∈ Config.familyOpCodes) (tail : List Byte) :
    Config.memoInfoCmd.bytes ≠ Config.SOH :: Config.CMD_CLASS :: opc :: tail :=
  fun h => memoInfoCmd_third_ne (by rw [h]; rfl) hopc (by rw [h]; rfl)

/-! ### The length of a command -/

theorem commandLength_of_encode {i : Instr} {bs : List Byte} (rest : List Byte) (hp : i.port = .toDevice)
    (hb : i ≠ .baudUp) (hm : i ≠ .readMemoHolderInfo) (he : encode i = .ok bs) :
    commandLength (bs ++ rest) = some bs.length := by
  cases i with
  | wakeup | unitInquiry | eot =>
    cases he
    rfl
  | cmdFocus | cmdShoot | readMemory =>
    cases he
    simp [commandLength, cmd9, Config.SOH, Config.OPC_FOCUS, Config.OPC_SHOOT, Config.OPC_READ, Config.OPC_WRITE]
  | writeToMemory a v =>
    obtain ⟨hv, rfl⟩ := encode_writeToMemory_eq_ok_iff.mp he
    rw [wrh8_append_serialize_length]
    simp [commandLength, wrh8, Config.SOH, Config.OPC_WRITE, Nat.mod_eq_of_lt (Nat.lt_succ_of_le hv)]
    omega
  | baudUp => exact absurd rfl hb
  | readMemoHolderInfo => exact absurd rfl hm
  | _ => cases hp

/-! ### The datapath -/

/-- One step of the 8-bit accumulator is one step of the exact sum: below 255, one subtraction reduces it (R111). -/
theorem chkStepDatapath_ofNat {n : Nat} (hn : n < 255) (b : Byte) :
    chkStepDatapath (BitVec.ofNat 8 n) b = BitVec.ofNat 8 (chkStep n b) := by
  have hb := b.isLt
  have hsum : ((BitVec.ofNat 8 n).setWidth 9 + b.setWidth 9 : BitVec 9).toNat = n + b.toNat := by
    simp only [BitVec.toNat_add, BitVec.toNat_setWidth, BitVec.toNat_ofNat]
    omega
  apply BitVec.eq_of_toNat_eq
  simp only [chkStepDatapath, chkStep, Config.CHK_MOD, hsum]
  split_ifs with hbig
  · simp only [BitVec.toNat_setWidth, BitVec.toNat_sub, hsum, BitVec.toNat_ofNat]
    omega
  · simp only [BitVec.toNat_setWidth, hsum, BitVec.toNat_ofNat]
    omega

theorem foldl_chkStepDatapath (p : List Byte) {n : Nat} (hn : n < 255) :
    p.foldl chkStepDatapath (BitVec.ofNat 8 n) = BitVec.ofNat 8 (p.foldl chkStep n) := by
  induction p generalizing n with
  | nil => rfl
  | cons b p ih =>
    have hstep : chkStep n b < 255 := Nat.mod_lt _ (by decide)
    rw [List.foldl_cons, List.foldl_cons, chkStepDatapath_ofNat hn, ih hstep]

/-! ### The obligations on encodings -/

/-- Settles O1: each port's decoder gives back what was encoded; the two open commands come last, so their bytes must
be no fixed command's. -/
theorem wellFormedDecodesBack : Obligations.WellFormedDecodesBack := by
  intro i hwf hbaud hmemo
  cases i with
  | start | upgrade | endFast | close | focus | shoot | readMem | writeMem | readMemoInfo | getRingAddrs | getMhAddrs
  | getMhSetting => exact ⟨_, rfl, rfl⟩
  | wakeup | unitInquiry | cmdFocus | cmdShoot | eot => exact ⟨_, rfl, rfl⟩
  | okResponse | unitIdResponse | eotEcho => exact ⟨_, rfl, rfl⟩
  | readMemory space a n => exact ⟨_, rfl, decode_toDevice_of_fixed (decodeFixedCommand_readMemory space a n)⟩
  | writeToMemory a v =>
    have hv : v.length ≤ 255 := of_decide_eq_true hwf
    have hdecode := decodeFixedCommand_writeToMemory a (lengthByte_toNat hv)
    exact ⟨_, encode_writeToMemory_of_le a hv, decode_toDevice_of_fixed hdecode⟩
  | baudUp =>
    have hdecode := decode_toDevice_of_not_fixed (hbaud rfl) (.inl rfl)
    rw [if_pos rfl] at hdecode
    exact ⟨_, rfl, hdecode⟩
  | readMemoHolderInfo =>
    obtain ⟨hshort, hne⟩ := hmemo rfl
    have hdecode := decode_toDevice_of_not_fixed (fun _ h => hshort (decodeFixedCommand_memoInfo h)) (.inr rfl)
    rw [if_neg hne] at hdecode
    exact ⟨_, rfl, hdecode⟩
  | dataPacket p =>
    obtain ⟨hmin, hmax⟩ : 1 ≤ p.length ∧ p.length ≤ Config.PAYLOAD_MAX := of_decide_eq_true hwf
    exact ⟨_, rfl, decode_fromDevice_serialize hmin hmax⟩

/-- Settles O2, port by port. -/
theorem decodedBytesAreTheEncoding : Obligations.DecodedBytesAreTheEncoding :=
  fun _ _ _ => encodesAs_of_decode

/-- Settles O4: the procedure finds the length, so the bytes taken are the command's own. -/
theorem commandLengthFromItsBytes : Obligations.CommandLengthFromItsBytes := by
  intro i bs rest hp hb hm he
  have hlen := commandLength_of_encode rest hp hb hm he
  refine ⟨hlen, ?_⟩
  simp [decodeCommandStream, hlen, decodeFixedCommand_encode hp hb hm he, Except.map]

/-- Settles O15: the accumulator stays below 255 (R111). -/
theorem datapathComputesTheChecksum : Obligations.DatapathComputesTheChecksum :=
  fun p => foldl_chkStepDatapath p (by decide)

/-- Settles O3, by evaluating the decoder on each word. -/
theorem wordsDecodeAsTheTablesSay : Obligations.WordsDecodeAsTheTablesSay := by
  refine ⟨rfl, rfl, rfl, rfl, rfl, ?write, rfl, rfl, rfl⟩
  case write => decide

/-- Settles O60: a command of the family has one of its op codes as its third byte. -/
theorem memoInfoCommandIsDistinct : Obligations.MemoInfoCommandIsDistinct := by
  refine ⟨_, rfl, nofun, fun htake hmem => ?third, fun h => ?focus, fun h => ?shoot, fun sp a n h => ?read,
    fun a v h => ?write⟩
  case third =>
    have hne : ∀ opc ∈ Config.familyOpCodes, Config.memoInfoCmd.bytes[2]? ≠ some opc :=
      fun _ => memoInfoCmd_third_ne htake
    simp only [List.mem_cons, List.not_mem_nil, or_false] at hmem
    rcases hmem with h | h | h | h <;> exact hne _ (by decide) h
  case focus => exact memoInfoCmd_ne_family (by decide) _ (Except.ok.inj h).symm
  case shoot => exact memoInfoCmd_ne_family (by decide) _ (Except.ok.inj h).symm
  case read => exact memoInfoCmd_ne_family (by decide) _ (Except.ok.inj h).symm
  case write => exact memoInfoCmd_ne_family (by decide) _ (encode_writeToMemory_eq_ok_iff.mp h).2

end Sys2Proof.Machine
end

section
/-! SUPPORT. The rows of the opcode table on the line, one step each: a command is the step that sends it
(spec/41_command_encoder.md), a response the arrival of its bytes at the step that reads
(spec/42_response_validators.md). -/

namespace Sys2Proof.Machine

open Sys2Proof.Claims

/-! ### The step `SEQ` is at -/

theorem running_of_seq {s : State} {op : HostOp} {k : Nat} {a : Action} (hb : s.status.busy = true)
    (hs : s.seq = ⟨some op, k + 1⟩) (ha : (stepList s op)[k]? = some a) : running s = some a := by
  simp [running, currentAction, hb, hs, ha]

theorem exists_seq_of_running {s : State} {a : Action} (h : running s = some a) :
    s.status.busy = true ∧ ∃ op k, s.seq = ⟨some op, k + 1⟩ ∧ (stepList s op)[k]? = some a := by
  obtain ⟨hb, ha⟩ := running_some h
  unfold currentAction at ha
  split at ha
  case h_1 op k hcur hstep => exact ⟨hb, op, k, congrArg₂ Seq.mk hcur hstep, ha⟩
  case h_2 => cases ha

theorem lt_stepCount_of_stepList {s : State} {op : HostOp} {k : Nat} {a : Action}
    (h : (stepList s op)[k]? = some a) : k < stepCount op := by
  have hlt := (List.getElem?_eq_some_iff.mp h).1
  rwa [stepList_length] at hlt

/-! ### Which step sends a command -/

/-- Where a command is sent depends on its row, not on its operands. -/
theorem sentAt_eq_of_tableRow_eq {i j : Instr} (h : tableRow i = tableRow j) : sentAt i = sentAt j := by
  cases i <;> cases j <;> cases h <;> rfl

theorem eq_wakeup_iff (i : Instr) : i = .wakeup ↔ tableRow i = 12 := by
  cases i <;> simp [tableRow]

theorem port_of_mem_sentAt {i : Instr} {p : HostOp × Nat} (h : p ∈ sentAt i) : i.port = .toDevice := by
  cases i with
  | wakeup | unitInquiry | cmdFocus | cmdShoot | readMemory | writeToMemory | eot | baudUp | readMemoHolderInfo => rfl
  | _ => cases h

/-- A step that sends is never the last of its list. -/
theorem lt_stepCount_of_mem_sentAt {i : Instr} {op : HostOp} {k : Nat} (h : (op, k) ∈ sentAt i) : k < stepCount op := by
  have hall : ∀ p ∈ sentAt i, p.2 < stepCount p.1 := by cases i <;> simp [sentAt, stepCount]
  exact hall _ h

theorem mem_sentAt_of_stepList {s : State} {op : HostOp} {k : Nat} {c : Instr}
    (h : (stepList s op)[k]? = some (.send c)) : (op, k + 1) ∈ sentAt c := by
  have hk := lt_stepCount_of_stepList h
  cases op <;> simp only [stepCount] at hk <;> interval_cases k <;> cases h <;>
    simp [sentAt, readMemoryOperands, writeToMemoryOperands, ringQuery, mhAddrsQuery, mhSettingQuery]

theorem stepList_of_mem_sentAt {i : Instr} {op : HostOp} {k : Nat} (h : (op, k) ∈ sentAt i) (s : State) :
    ∃ j c, k = j + 1 ∧ (stepList s op)[j]? = some (.send c) ∧ tableRow c = tableRow i := by
  cases i <;> simp only [sentAt, List.mem_cons, Prod.mk.injEq, List.not_mem_nil, or_false] at h
  case readMemory =>
    rcases h with ⟨rfl, rfl⟩ | ⟨rfl, rfl⟩ | ⟨rfl, rfl⟩ | ⟨rfl, rfl⟩ <;> exact ⟨0, _, rfl, rfl, rfl⟩
  case unitInquiry =>
    obtain ⟨rfl, rfl⟩ := h
    exact ⟨3, _, rfl, rfl, rfl⟩
  all_goals
    obtain ⟨rfl, rfl⟩ := h
    exact ⟨0, _, rfl, rfl, rfl⟩

theorem sendsRow_iff_running {s : State} {i : Instr} :
    sendsRow s i = true ↔ ∃ c, running s = some (.send c) ∧ tableRow c = tableRow i := by
  unfold sendsRow
  split
  case h_1 c hr => simp [hr]
  case h_2 hne => exact iff_of_false (by decide) fun ⟨c, hr, _⟩ => hne c hr

/-- The running step sends the command of this row where the spec's step lists have it (log 6). -/
theorem sendsRow_iff {s : State} {i : Instr} :
    sendsRow s i = true ↔ s.status.busy = true ∧ ∃ op k, (op, k) ∈ sentAt i ∧ s.seq = ⟨some op, k⟩ := by
  rw [sendsRow_iff_running]
  constructor
  · rintro ⟨c, hr, hrow⟩
    obtain ⟨hb, op, k, hs, hc⟩ := exists_seq_of_running hr
    exact ⟨hb, op, k + 1, sentAt_eq_of_tableRow_eq hrow ▸ mem_sentAt_of_stepList hc, hs⟩
  · rintro ⟨hb, op, k, hat, hs⟩
    obtain ⟨j, c, rfl, hc, hrow⟩ := stepList_of_mem_sentAt hat s
    exact ⟨c, running_of_seq hb hs hc, hrow⟩

/-! ### The host's rows -/

theorem eq_opInstr_of_port {i : Instr} (hp : i.port = .hostOp) : ∃ op, i = opInstr op := by
  have hmem : ∃ op ∈ allOps, i = opInstr op := by
    cases i with
    | start | upgrade | endFast | close | focus | shoot | readMem | writeMem | readMemoInfo | getRingAddrs | getMhAddrs
    | getMhSetting => decide
    | _ => cases hp
  obtain ⟨op, -, hop⟩ := hmem
  exact ⟨op, hop⟩

/-! ### The command rows -/

/-- Only a write can be too long (R121). -/
theorem encode_error {i : Instr} {k : ErrKind} (he : encode i = .error k) :
    k = .encodingError ∧ ∃ a v, i = .writeToMemory a v := by
  cases i with
  | writeToMemory a v =>
    rw [encode] at he
    split_ifs at he
    cases he
    exact ⟨rfl, a, v, rfl⟩
  | _ => cases he

theorem exec_toDevice {i : Instr} (hp : i.port = .toDevice) (s : State) :
    exec i s = .next (sendCommand i (fun t => if i = .wakeup then { t with ss := .awake } else t) s) := by
  cases i with
  | wakeup | unitInquiry | cmdFocus | cmdShoot | readMemory | writeToMemory | eot | baudUp | readMemoHolderInfo => rfl
  | _ => cases hp

section
variable {i : Instr} {s : State}

theorem exec_elsewhere (hp : i.port = .toDevice) (h : sendsRow s i = false) : exec i s = .next s := by
  rw [exec_toDevice hp, sendCommand, h]
  rfl

/-- At its step a command is the work of that step and its end. -/
theorem exec_at_its_step {bs : List Byte} (hp : i.port = .toDevice) (h : sendsRow s i = true)
    (he : encode i = .ok bs) : exec i s = .next (conclude (attempt (.send i) s)) := by
  rw [exec_toDevice hp]
  simp only [sendCommand, h, he, tWrite, attempt, if_true]
  by_cases hok : answerOk (nextAnswer s).1 = true <;> simp only [hok, if_true] <;> rfl

theorem exec_too_long {k : ErrKind} (hp : i.port = .toDevice) (h : sendsRow s i = true) (he : encode i = .error k) :
    exec i s = .next (complete (refuse k s)) := by
  rw [exec_toDevice hp]
  simp only [sendCommand, h, he, if_true]

end

/-! ### The device's rows -/

theorem exec_fromDevice {i : Instr} {bs : List Byte} (hp : i.port = .fromDevice) (he : encode i = .ok bs) (s : State) :
    exec i s = .next (receive (.ok bs) s) := by
  cases i with
  | okResponse | unitIdResponse | eotEcho | dataPacket =>
    cases he
    rfl
  | _ => cases hp

theorem encode_of_fromDevice {i : Instr} (hp : i.port = .fromDevice) : ∃ bs, encode i = .ok bs := by
  cases i with
  | okResponse | unitIdResponse | eotEcho | dataPacket => exact ⟨_, rfl⟩
  | _ => cases hp

theorem bytesAsked_expect (r : FixedResponse) : bytesAsked (.expect r) = some (expectedBytes r).length := by
  cases r <;> rfl

section
variable {s : State} {x : Action} {n : Nat}

/-- An answer that arrives at the running read is the work of that step with this answer, and its end. -/
theorem receive_of_reading (a : Answer) (hr : running s = some x) (hx : bytesAsked x = some n) :
    receive a s = conclude (attempt x { s with answers := a :: s.answers }) := by
  cases x with
  | expect r =>
    rw [attempt_expect rfl]
    simp only [receive, hr, receiveFixed, tReadWith]
    cases readResult (expectedBytes r).length a with
    | none => rfl
    | some b => by_cases hb : b = expectedBytes r <;> simp only [hb, if_true, if_false] <;> rfl
  | packet k =>
    rw [attempt_packet rfl]
    simp only [receive, hr, receivePacket, tReadWith]
    cases readResult (k + 3) a with
    | none => rfl
    | some f => dsimp only; cases deserialize f <;> rfl
  | send | delay | clear | setBaud | enter | decode => cases hx

theorem receive_of_not_reading (a : Answer) (hexpect : ∀ r, running s ≠ some (.expect r))
    (hpacket : ∀ n, running s ≠ some (.packet n)) : receive a s = s := by
  unfold receive
  split
  case h_1 r hr => exact absurd hr (hexpect r)
  case h_2 n hr => exact absurd hr (hpacket n)
  case h_3 => rfl

theorem receive_cases (a : Answer) (s : State) :
    receive a s = s ∨ ∃ x n, running s = some x ∧ bytesAsked x = some n := by
  unfold receive
  split
  case h_1 r hr => exact .inr ⟨_, _, hr, bytesAsked_expect r⟩
  case h_2 n hr => exact .inr ⟨_, _, hr, rfl⟩
  case h_3 => exact .inl rfl

/-- A fixed response arrives whole where it is expected. -/
theorem receive_expected {r : FixedResponse} (hr : running s = some (.expect r)) :
    receive (.ok (expectedBytes r)) s =
      finishStep { s with trace := s.trace ++ [.read (expectedBytes r).length (some (expectedBytes r))] } := by
  rw [receive_of_reading _ hr (bytesAsked_expect r), attempt_expect_ok rfl rfl, if_pos rfl]
  rfl

section
variable {i : Instr} {r : FixedResponse} {op : HostOp} {k : Nat} (hb : s.status.busy = true)
  (hs : s.seq = ⟨some op, k + 1⟩) (hp : i.port = .fromDevice) (he : encode i = .ok (expectedBytes r))
  (hstep : (stepList s op)[k]? = some (.expect r))
include hb hs hp he hstep

theorem exec_expected_goes_on (hmore : k + 1 < stepCount op) :
    exec i s = .next { s with
      seq := ⟨some op, k + 2⟩
      trace := s.trace ++ [.read (expectedBytes r).length (some (expectedBytes r))] } := by
  rw [exec_fromDevice hp he, receive_expected (running_of_seq hb hs hstep)]
  exact congrArg _ (finishStep_next hs hmore)

theorem exec_expected_completes (hlast : stepCount op ≤ k + 1) :
    exec i s = .next { s with
      seq := ⟨none, 0⟩, status := ⟨false, true, s.status.err⟩
      trace := s.trace ++ [.read (expectedBytes r).length (some (expectedBytes r))] } := by
  rw [exec_fromDevice hp he, receive_expected (running_of_seq hb hs hstep)]
  exact congrArg _ (finishStep_last hs hlast)

end

/-- A packet of the length asked for arrives. -/
theorem receive_serialize {p : List Byte} (hr : running s = some (.packet n)) (hlen : p.length = n) (hn : 1 ≤ n) :
    receive (.ok (serialize p)) s =
      finishStep (storePayload p { s with trace := s.trace ++ [.read (n + 3) (some (serialize p))] }) := by
  have hdes : deserialize (serialize p) = .ok p := deserialize_eq_ok_iff.mpr ⟨by omega, rfl⟩
  rw [receive_of_reading _ hr rfl, attempt_packet_ok rfl (by rw [serialize_length, hlen]) hdes]
  rfl

/-- A busy block at a reading step takes the transport's answer. -/
theorem sequencerTurn_reading {a : Answer} {rest : List Answer} (hb : s.status.busy = true)
    (hx : currentAction s = some x) (hread : (∃ r, x = .expect r) ∨ ∃ n, x = .packet n) (ha : s.answers = a :: rest) :
    sequencerTurn s = .next (receive a { s with answers := rest }) := by
  rcases hread with ⟨r, rfl⟩ | ⟨n, rfl⟩ <;> simp only [sequencerTurn, hb, hx, if_true, nextAnswer_cons ha]

end

/-! ### The obligations of the rows -/

/-- Settles O32: the step's work is one write, and a step that sends has one after it. -/
theorem wireCommandIsOneWrite : Obligations.WireCommandIsOneWrite := by
  intro i op k s bs d rest hat hb hs he ha
  have hsends : sendsRow s i = true := sendsRow_iff.mpr ⟨hb, op, k, hat, hs⟩
  rw [exec_at_its_step (port_of_mem_sentAt hat) hsends he, attempt_send_ok he ha, conclude]
  exact congrArg _ (finishStep_next hs (lt_stepCount_of_mem_sentAt hat))

/-- Settles O33: the failed write raises `TransportError` at its step; what cannot be encoded is not written. -/
theorem wireCommandWriteFails : Obligations.WireCommandWriteFails := by
  intro i op k s bs rest hat hb hs
  have hport := port_of_mem_sentAt hat
  have hsends : sendsRow s i = true := sendsRow_iff.mpr ⟨hb, op, k, hat, hs⟩
  refine ⟨fun he ha => ?fails, fun he => ?tooLong⟩
  case fails =>
    rw [exec_at_its_step hport hsends he, attempt_send_err he ha]
    simp [conclude, abort, setAborted, aborted, hs, errorCode, errorSub]
  case tooLong =>
    rw [exec_too_long hport hsends he]
    simp [complete, setCompleted, refuse, setRefused, refused, errorCode]

/-- Settles O34: away from the steps of `sentAt` no row is sent. -/
theorem wireCommandElsewhereSendsNothing : Obligations.WireCommandElsewhereSendsNothing := by
  intro i s hp helse
  refine exec_elsewhere hp (Bool.eq_false_iff.mpr fun hsends => ?_)
  obtain ⟨hb, op, k, hat, hs⟩ := sendsRow_iff.mp hsends
  rcases helse with hidle | hnot
  · exact absurd (hidle.symm.trans hb) (by decide)
  · exact hnot op k hat hs

/-- Settles O35: the response is the one expected, and the lists say whether a step follows. -/
theorem fixedResponseAccepted : Obligations.FixedResponseAccepted := by
  intro i r op k s hb hs
  refine ⟨fun hmem => ?more, fun hmem => ?last⟩ <;>
    simp only [List.mem_cons, Prod.mk.injEq, List.not_mem_nil, or_false] at hmem <;>
    rcases hmem with ⟨rfl, rfl, rfl, rfl⟩ | ⟨rfl, rfl, rfl, rfl⟩ | ⟨rfl, rfl, rfl, rfl⟩
  case more.inl | more.inr.inl | more.inr.inr => exact exec_expected_goes_on hb hs rfl rfl rfl (by decide)
  case last.inl | last.inr.inl | last.inr.inr => exact exec_expected_completes hb hs rfl rfl rfl le_rfl

/-- Settles O36: the frame of the payload is read whole and accepted. -/
theorem dataPacketAccepted : Obligations.DataPacketAccepted := by
  intro p op n s hb hs hop hlen hn
  simp only [List.mem_cons, Prod.mk.injEq, List.not_mem_nil, or_false] at hop
  have hstep : (stepList s op)[1]? = some (.packet n) := by
    rcases hop with ⟨rfl, rfl⟩ | ⟨rfl, rfl⟩ | ⟨rfl, rfl⟩ | ⟨rfl, rfl⟩ | ⟨rfl, rfl⟩ <;> rfl
  have hmax : p.length ≤ 255 := by
    have hreg := s.aLen.isLt
    omega
  have hread := receive_serialize (running_of_seq hb hs hstep) hlen hn
  have hexec := (exec_fromDevice (i := .dataPacket p) rfl rfl s).trans (congrArg _ hread)
  rw [serialize] at hexec
  have hrec := received_storePayload hmax s
  by_cases hlast : op = .readMem
  · have hdone := hexec.trans (congrArg _ (finishStep_last hs (by rw [hlast]; decide)))
    exact ⟨_, hdone, hrec, by rw [if_pos hlast, if_pos hlast]; rfl⟩
  · have hmore : 2 < stepCount op := by
      rcases hop with ⟨rfl, -⟩ | ⟨rfl, -⟩ | ⟨rfl, -⟩ | ⟨rfl, -⟩ | ⟨rfl, -⟩
      · exact absurd rfl hlast
      all_goals decide
    have hnext := hexec.trans (congrArg _ (finishStep_next hs hmore))
    exact ⟨_, hnext, hrec, by rw [if_neg hlast, if_neg hlast]; rfl⟩

/-- Settles O37: each device row is an arrival, and `receive` looks for a reading step. -/
theorem unaskedResponseChangesNothing : Obligations.UnaskedResponseChangesNothing := by
  intro i s hp hexpect hpacket
  obtain ⟨bs, he⟩ := encode_of_fromDevice hp
  rw [exec_fromDevice hp he, receive_of_not_reading _ hexpect hpacket]

/-- Settles O38: what the transport answers is decoded by the response whose encoding it is. -/
theorem stepRunsTheInstruction : Obligations.StepRunsTheInstruction := by
  refine ⟨fun s v rest i hturn hdecode => ?host, fun s i hblock hb hcur => ?command,
    fun s a r rest i hblock hb hcur hread ha hdecode => ?response⟩
  case host =>
    rw [← lowByte_setWidth] at hdecode
    simp only [step, takeTurn, hturn, hostTurn, hdecode]
  case command =>
    have hcur' : currentAction { s with turns := s.turns.drop 1 } = some (.send i) := hcur
    rw [step_block hblock]
    simp only [sequencerTurn, hb, hcur', if_true]
  case response =>
    obtain ⟨-, hport, he⟩ := encodesAs_of_decode hdecode
    rw [step_block hblock]
    have hread := sequencerTurn_reading (s := { s with turns := s.turns.drop 1 }) hb hcur hread ha
    exact hread.trans (exec_fromDevice hport he _).symm

end Sys2Proof.Machine
end

section
/-! SUPPORT. What one step of the machine changes, from any state: the registers by who may write them
(spec/10_state.md), the event trace (R16), and what a reading step takes (spec/20_memory.md R61). -/

namespace Sys2Proof.Machine

open Sys2Proof.Claims

/-! ### Frames -/

/-- The end of a step changes `STATUS`, the error registers, `SS`, `SEQ`, and after an abort `RBUF` and `RLEN`. -/
theorem conclude_frame (r : Except (ErrKind × State) State) :
    ∃ st c b e x q rb rl d, conclude r = { attemptState r with
      status := st, errcode := c, errsub := b, errstep := e, ss := x, seq := q, rbuf := rb, rlen := rl
      draws := d } := by
  cases r with
  | ok u =>
    obtain ⟨st, q, h⟩ := finishStep_frame u
    exact ⟨st, u.errcode, u.errsub, u.errstep, u.ss, q, u.rbuf, u.rlen, u.draws, h⟩
  | error ku => exact ⟨_, _, _, _, _, _, _, _, _, rfl⟩

@[simp] theorem finishStep_ss (s : State) : (finishStep s).ss = s.ss := by
  obtain ⟨st, q, h⟩ := finishStep_frame s
  rw [h]

@[simp] theorem finishStep_errcode (s : State) : (finishStep s).errcode = s.errcode := by
  obtain ⟨st, q, h⟩ := finishStep_frame s
  rw [h]

@[simp] theorem finishStep_errsub (s : State) : (finishStep s).errsub = s.errsub := by
  obtain ⟨st, q, h⟩ := finishStep_frame s
  rw [h]

@[simp] theorem finishStep_err (s : State) : (finishStep s).status.err = s.status.err := by
  rcases finishStep_cases s with ⟨-, h⟩ | ⟨op, -, -, h⟩ | ⟨op, -, -, h⟩ <;>
    exact congrArg (·.status.err) h

theorem writeOp_busy {s : State} (op : HostOp) (h : s.status.busy = true) : writeOp op s = s := if_pos h

theorem writeIllegalOp_busy {s : State} (h : s.status.busy = true) : writeIllegalOp s = s := if_pos h

/-- A write to `OP` changes `STATUS`, the error registers and `SEQ` only (R141). -/
theorem writeOp_frame (op : HostOp) (s : State) :
    ∃ st c b e q, writeOp op s = { s with status := st, errcode := c, errsub := b, errstep := e, seq := q } := by
  rcases writeOp_cases op s with ⟨-, h⟩ | ⟨-, -, h⟩ | ⟨-, -, -, -, h⟩ | ⟨-, -, -, h⟩ <;> rw [h]
  · exact ⟨s.status, s.errcode, s.errsub, s.errstep, s.seq, rfl⟩
  · exact ⟨_, _, _, _, s.seq, rfl⟩
  · exact ⟨_, _, _, _, s.seq, rfl⟩
  · exact ⟨_, _, _, _, _, rfl⟩

theorem writeIllegalOp_frame (s : State) :
    ∃ st c b e, writeIllegalOp s = { s with status := st, errcode := c, errsub := b, errstep := e } := by
  unfold writeIllegalOp
  split
  · exact ⟨s.status, s.errcode, s.errsub, s.errstep, rfl⟩
  · exact ⟨_, _, _, _, rfl⟩

/-- What no action of the host but reset changes. -/
structure HostFrame (s t : State) : Prop where
  ss : t.ss = s.ss
  baud : t.baud = s.baud
  received : t.rbuf = s.rbuf ∧ t.rlen = s.rlen
  ring : t.ringStart = s.ringStart ∧ t.ringEnd = s.ringEnd
  mhAddrs : t.mhCurrent = s.mhCurrent ∧ t.mhStart = s.mhStart ∧ t.mhRollStart = s.mhRollStart
  mhSetting : t.mhSetting = s.mhSetting ∧ t.mhBpf = s.mhBpf
  memoInfo : t.rollId = s.rollId ∧ t.bytesToRead = s.bytesToRead
  trace : t.trace = s.trace

/-- Who moved: an idle block waited, a busy one ran a step, the host acted, or it applied reset. -/
theorem step_movers {s t : State} (h : step s = .next t) :
    (blockNext s = true ∧ s.status.busy = false ∧ t = { s with turns := s.turns.drop 1 }) ∨
    (blockNext s = true ∧ s.status.busy = true ∧
      ∃ a, running s = some a ∧ t = conclude (attempt a { s with turns := s.turns.drop 1 })) ∨
    (resetNext s = false ∧ HostFrame s t) ∨
    (resetNext s = true ∧ ∃ rest, t = applyReset { s with turns := rest }) := by
  rcases step_cases h with ⟨hblock, s', rfl, ⟨hidle, rfl⟩ | ⟨hb, a, ha, rfl⟩⟩ | ⟨a, rest, hturns, s', rfl, hact⟩
  · exact .inl ⟨hblock, hidle, rfl⟩
  · exact .inr (.inl ⟨hblock, hb, a, (running_of_busy hb).trans ha, rfl⟩)
  · rcases hact with ⟨v, op, rfl, rfl⟩ | ⟨v, rfl, rfl⟩ | ⟨r, v, rfl, -, rfl⟩ | ⟨r, rfl, rfl⟩ | ⟨rfl, rfl⟩
    case inr.inr.inr.inr => exact .inr (.inr (.inr ⟨by rw [resetNext, hturns], rest, rfl⟩))
    all_goals refine .inr (.inr (.inl ⟨by rw [resetNext, hturns], ?_⟩))
    · obtain ⟨st, c, b, e, q, hop⟩ := writeOp_frame op { s with turns := rest }
      rw [hop]
      constructor <;> simp only [and_self]
    · obtain ⟨st, c, b, e, hop⟩ := writeIllegalOp_frame { s with turns := rest }
      rw [hop]
      constructor <;> simp only [and_self]
    · obtain ⟨a, b, c, d, p, hreg⟩ := writeRegister_frame r v { s with turns := rest }
      rw [hreg]
      constructor <;> simp only [and_self]
    · obtain ⟨l, n, hread⟩ := readRegister_frame r { s with turns := rest }
      rw [hread]
      constructor <;> simp only [and_self]

/-! ### Where the step lists have their special steps -/

/-- The operation a decoder belongs to (R163, R177 to R179). -/
def decoderOp : Decoder → HostOp
  | .ring => .getRingAddrs
  | .mhAddrs => .getMhAddrs
  | .mhSetting => .getMhSetting
  | .memoInfo => .readMemoInfo

section
variable {s : State} {op : HostOp} {k : Nat}

theorem stepList_setBaud {b : LineSpeed} (h : (stepList s op)[k]? = some (.setBaud b)) :
    (op = .upgrade ∨ op = .endFast) ∧ k = 3 := by
  have hk := lt_stepCount_of_stepList h
  cases op <;> simp only [stepCount] at hk <;> interval_cases k <;> cases h <;> decide

theorem stepList_enter {x : SessionState} (h : (stepList s op)[k]? = some (.enter x)) :
    (op, k, x) ∈ [(HostOp.start, 5, SessionState.identified), (.upgrade, 4, .fastMode), (.endFast, 4, .identified),
      (.close, 0, .closed)] := by
  have hk := lt_stepCount_of_stepList h
  cases op <;> simp only [stepCount] at hk <;> interval_cases k <;> cases h <;> decide

/-- A decoder is the last of its operation's three steps. -/
theorem stepList_decode {d : Decoder} (h : (stepList s op)[k]? = some (.decode d)) :
    k = 2 ∧ op = decoderOp d ∧ stepCount op = 3 := by
  have hk := lt_stepCount_of_stepList h
  cases op <;> simp only [stepCount] at hk <;> interval_cases k <;> cases h <;> decide

end

/-! ### A reading step -/

section
variable {s : State} {x : Action} {n : Nat} {a : Answer} {rest : List Answer}

theorem readResult_of_le {bs : List Byte} (h : n ≤ bs.length) : readResult n (.ok bs) = some (bs.take n) := if_pos h

/-- Too few bytes are a timeout (R61, log 2). -/
theorem readResult_of_short (h : a = .err ∨ ∃ bs, a = .ok bs ∧ bs.length < n) : readResult n a = none := by
  rcases h with rfl | ⟨bs, rfl, hlt⟩
  · rfl
  · exact if_neg (by omega)

theorem expectedBytes_eq_responseBytes (f : FixedResponse) : expectedBytes f = responseBytes f := by
  cases f <;> rfl

/-- A reading step uses one answer and records one `Read` event, whatever the answer (R61). -/
theorem attempt_reading (hx : bytesAsked x = some n) (ha : s.answers = a :: rest) :
    (attemptState (attempt x s)).answers = rest ∧
      (attemptState (attempt x s)).trace = s.trace ++ [.read n (readResult n a)] := by
  cases x with
  | expect f =>
    obtain rfl : (expectedBytes f).length = n := Option.some.inj ((bytesAsked_expect f).symm.trans hx)
    rw [attempt_expect ha]
    cases readResult (expectedBytes f).length a with
    | none => exact ⟨rfl, rfl⟩
    | some b => by_cases hb : b = expectedBytes f <;> simp only [hb, if_true, if_false] <;> exact ⟨rfl, rfl⟩
  | packet m =>
    cases hx
    rw [attempt_packet ha]
    cases readResult (m + 3) a with
    | none => exact ⟨rfl, rfl⟩
    | some f => dsimp only; cases deserialize f <;> exact ⟨rfl, rfl⟩
  | send | delay | clear | setBaud | enter | decode => cases hx

/-- A read that fails raises `TransportError` before anything is compared (R130). -/
theorem attempt_reading_fails (hx : bytesAsked x = some n) (ha : s.answers = a :: rest) (hr : readResult n a = none) :
    ∃ u, attempt x s = .error (.transportError, u) := by
  cases x with
  | expect f =>
    obtain rfl : (expectedBytes f).length = n := Option.some.inj ((bytesAsked_expect f).symm.trans hx)
    rw [attempt_expect ha, hr]
    exact ⟨_, rfl⟩
  | packet m =>
    cases hx
    rw [attempt_packet ha, hr]
    exact ⟨_, rfl⟩
  | send | delay | clear | setBaud | enter | decode => cases hx

end

/-! ### The obligations on single steps -/

/-- Settles O47: a step's work leaves the operands alone, and a busy block ignores the host's writes. -/
theorem operandsChangeOnlyByTheHost : Obligations.OperandsChangeOnlyByTheHost := by
  intro s t h hwho
  rcases step_cases h with ⟨-, s', rfl, ⟨-, rfl⟩ | ⟨-, a, -, rfl⟩⟩ | ⟨a, rest, hturns, s', rfl, hact⟩
  · exact ⟨rfl, rfl, rfl, rfl, rfl⟩
  · have hc := attempt_sameControl a { s with turns := s.turns.drop 1 }
    obtain ⟨st, c, b, e, x, q, rb, rl, d, hend⟩ := conclude_frame (attempt a { s with turns := s.turns.drop 1 })
    rw [hend]
    exact ⟨hc.aSpace, hc.aLen, hc.aAddr, hc.vlen, hc.pbuf⟩
  · obtain ⟨hb, hreset⟩ : s.status.busy = true ∧ resetNext s = false := by
      refine hwho.resolve_left fun hblock => ?_
      simp [blockNext, hturns] at hblock
    have hbusy : ({ s with turns := rest } : State).status.busy = true := hb
    rcases hact with ⟨v, op, rfl, rfl⟩ | ⟨v, rfl, rfl⟩ | ⟨r, v, rfl, -, rfl⟩ | ⟨r, rfl, rfl⟩ | ⟨rfl, rfl⟩
    · rw [writeOp_busy op hbusy]
      exact ⟨rfl, rfl, rfl, rfl, rfl⟩
    · rw [writeIllegalOp_busy hbusy]
      exact ⟨rfl, rfl, rfl, rfl, rfl⟩
    · rw [writeRegister_busy r v hbusy]
      exact ⟨rfl, rfl, rfl, rfl, rfl⟩
    · obtain ⟨l, n, hread⟩ := readRegister_frame r { s with turns := rest }
      rw [hread]
      exact ⟨rfl, rfl, rfl, rfl, rfl⟩
    · simp [resetNext, hturns] at hreset

/-- Settles O49: the work of a step records at most one event, and its end none. -/
theorem atMostOneEventAStep : Obligations.AtMostOneEventAStep := by
  intro s t h
  rcases step_movers h with ⟨-, -, rfl⟩ | ⟨hblock, hb, a, -, rfl⟩ | ⟨-, hframe⟩ | ⟨-, rest, rfl⟩
  · exact .inl rfl
  · obtain ⟨st, c, b, e, x, q, rb, rl, d, hend⟩ := conclude_frame (attempt a { s with turns := s.turns.drop 1 })
    rw [hend]
    exact (attempt_frame a { s with turns := s.turns.drop 1 }).trace.imp id fun hevent => ⟨hblock, hb, hevent⟩
  · exact .inl hframe.trace
  · exact .inl rfl

/-- Settles O55: the read comes to `readResult`; a validator then compares all its bytes. -/
theorem readGivesExactlyTheBytesAsked : Obligations.ReadGivesExactlyTheBytesAsked := by
  intro s x n a rest hblock hrun hx ha
  obtain ⟨hb, hcur⟩ := running_some hrun
  have hanswers : ({ s with turns := s.turns.drop 1 } : State).answers = a :: rest := ha
  obtain ⟨hrest, htrace⟩ := attempt_reading hx hanswers
  obtain ⟨st, c, b, e, y, q, rb, rl, d, hend⟩ := conclude_frame (attempt x { s with turns := s.turns.drop 1 })
  refine ⟨_, readResult n a, step_busy hblock hb hcur, by rw [hend]; exact hrest, by rw [hend]; exact htrace,
    fun b => readResult_length, fun bs hok hle => by rw [hok, readResult_of_le hle], fun hshort => ?short,
    fun f b hf hr => ?compare⟩
  case short =>
    have hr := readResult_of_short hshort
    obtain ⟨u, hu⟩ := attempt_reading_fails hx hanswers hr
    rw [hu]
    exact ⟨hr, rfl, rfl, rfl⟩
  case compare =>
    subst hf
    obtain rfl : (expectedBytes f).length = n := Option.some.inj ((bytesAsked_expect f).symm.trans hx)
    rw [attempt_expect hanswers, hr, ← expectedBytes_eq_responseBytes]
    refine ⟨fun heq => ?same, fun hne => ?differs⟩
    case same =>
      simp only [if_pos heq]
      exact ⟨finishStep_ss _, finishStep_errcode _, finishStep_errsub _⟩
    case differs =>
      simp only [if_neg hne]
      exact ⟨rfl, rfl, by cases f <;> rfl⟩

/-- Settles O56: only a `T_set_baud` step writes `BAUD`, and two lists have one, as their fourth step. -/
theorem speedChangesOnlyAtItsSteps : Obligations.SpeedChangesOnlyAtItsSteps := by
  intro s t h hne
  rcases step_movers h with ⟨-, -, rfl⟩ | ⟨hblock, hb, a, hrun, rfl⟩ | ⟨-, hframe⟩ | ⟨hreset, rest, rfl⟩
  · exact absurd rfl hne
  · obtain ⟨st, c, b, e, x, q, rb, rl, d, hend⟩ := conclude_frame (attempt a { s with turns := s.turns.drop 1 })
    rw [hend] at hne
    obtain ⟨speed, rfl⟩ : ∃ speed, a = .setBaud speed := by
      by_contra hnot
      exact hne ((attempt_frame a { s with turns := s.turns.drop 1 }).baud (not_exists.mp hnot))
    obtain ⟨-, op, k, hs, hstep⟩ := exists_seq_of_running hrun
    obtain ⟨hop, rfl⟩ := stepList_setBaud hstep
    exact .inl ⟨hblock, hb, hop.imp (fun hop => by rw [hs, hop]) (fun hop => by rw [hs, hop])⟩
  · exact absurd hframe.baud hne
  · exact .inr ⟨hreset, rfl⟩

/-- Settles O57: a step that reads no packet leaves the payload alone unless it ends in an abort. -/
theorem receivedPayloadChangesOnlyByPackets : Obligations.ReceivedPayloadChangesOnlyByPackets := by
  intro s t h hne
  rcases step_movers h with ⟨-, -, rfl⟩ | ⟨hblock, hb, a, hrun, rfl⟩ | ⟨-, hframe⟩ | ⟨hreset, -⟩
  · exact absurd ⟨rfl, rfl⟩ hne
  · refine .inl ⟨hblock, ?_⟩
    by_cases hpacket : ∃ n, a = .packet n
    · obtain ⟨n, rfl⟩ := hpacket
      exact .inl ⟨n, hrun⟩
    · have hkept := (attempt_frame a { s with turns := s.turns.drop 1 }).received (not_exists.mp hpacket)
      rcases hu : attempt a { s with turns := s.turns.drop 1 } with ⟨k, u⟩ | u
      · exact .inr ⟨rfl, rfl⟩
      · rw [hu] at hne hkept
        obtain ⟨st, q, hfinish⟩ := finishStep_frame u
        rw [conclude, hfinish] at hne
        exact absurd hkept hne
  · exact absurd hframe.received hne
  · exact .inr hreset

/-- Settles O58: an idle block waits, and only an `OP` write among the host's actions sets the flags. -/
theorem errorsStayUntilTheNextOpWrite : Obligations.ErrorsStayUntilTheNextOpWrite := by
  intro s t hidle h hreset hop
  rcases step_cases h with ⟨-, s', rfl, ⟨-, rfl⟩ | ⟨hb, -⟩⟩ | ⟨a, rest, hturns, s', rfl, hact⟩
  · exact ⟨rfl, rfl, rfl, rfl, rfl, rfl⟩
  · exact absurd (hidle.symm.trans hb) (by decide)
  · rcases hact with ⟨v, op, rfl, -⟩ | ⟨v, rfl, -⟩ | ⟨r, v, rfl, -, rfl⟩ | ⟨r, rfl, rfl⟩ | ⟨rfl, -⟩
    · exact absurd hturns (hop v rest)
    · exact absurd hturns (hop v rest)
    · obtain ⟨a, b, c, d, p, hreg⟩ := writeRegister_frame r v { s with turns := rest }
      rw [hreg]
      exact ⟨rfl, rfl, rfl, rfl, rfl, rfl⟩
    · obtain ⟨l, n, hread⟩ := readRegister_frame r { s with turns := rest }
      rw [hread]
      exact ⟨rfl, rfl, rfl, rfl, rfl, rfl⟩
    · simp [resetNext, hturns] at hreset

end Sys2Proof.Machine
end

section
/-! SUPPORT. The host's port (spec/10_state.md R22 to R34): the acceptance procedure of a write to `OP`
(spec/43_session.md R141), writes and reads of the other registers, and reset. -/

namespace Sys2Proof.Machine

open Sys2Proof.Claims

/-! ### Values written to `OP` -/

/-- The codes of R90, as bytes and as numbers. -/
theorem decodeOp_eq_operationOf : ∀ v : Byte, decodeOp v =
    (operationOf v.toNat).elim (.error .illegalOp) fun op => .ok (opInstr op) := by
  decide

theorem lowByte_toNat (v : Half) : (lowByte v).toNat = v.toNat % 256 := by
  rw [lowByte_setWidth, BitVec.toNat_setWidth]

section
variable {s : State} {v : Half} {rest : List Turn} (hturns : s.turns = .host (.write .op v) :: rest)
include hturns

theorem step_write_operation {op : HostOp} (hop : operationOf (v.toNat % 256) = some op) :
    step s = .next (writeOp op { s with turns := rest }) := by
  have hdecode : decodeOp (lowByte v) = .ok (opInstr op) := by
    rw [decodeOp_eq_operationOf, lowByte_toNat, hop, Option.elim_some]
  simp only [step, takeTurn, hturns, hostTurn, decode, hdecode, exec_opInstr]

theorem step_write_illegal (hop : operationOf (v.toNat % 256) = none) :
    step s = .next (writeIllegalOp { s with turns := rest }) := by
  have hdecode : decodeOp (lowByte v) = .error .illegalOp := by
    rw [decodeOp_eq_operationOf, lowByte_toNat, hop, Option.elim_none]
  simp only [step, takeTurn, hturns, hostTurn, decode, hdecode]

end

/-! ### Acceptance -/

theorem acceptedIn_iff (op : HostOp) (x : SessionState) : acceptedIn op x = true ↔ x ∈ acceptedStates op := by
  cases op <;> simp [acceptedIn, acceptedStates]

/-- A refusal of an idle block, with the code of its kind (R196). -/
theorem refuse_clearErrors {s : State} (hb : s.status.busy = false) (k : ErrKind) :
    refuse k (clearErrors s) = refused (errorCode k) s := by
  simp [refuse, setRefused, clearErrors, refused, hb]

section
variable {s : State} {op : HostOp} (hb : s.status.busy = false)
include hb

theorem writeOp_not_accepted (hacc : s.ss ∉ acceptedStates op) : writeOp op s = refused 8 s := by
  have hacc' : ¬ acceptedIn op s.ss = true := fun h => hacc ((acceptedIn_iff op s.ss).mp h)
  rw [writeOp, if_neg (by simp [hb]), if_pos hacc']
  exact refuse_clearErrors hb .stateError

theorem writeOp_accepted (hacc : s.ss ∈ acceptedStates op) (hfits : ¬(op = .writeMem ∧ 255 < s.vlen.toNat)) :
    writeOp op s = started op s :=
  writeOp_starts hb ((acceptedIn_iff op s.ss).mpr hacc) fun hop => Nat.le_of_not_lt fun hlt => hfits ⟨hop, hlt⟩

theorem writeOp_too_long (hacc : s.ss ∈ acceptedStates op) (hlong : op = .writeMem ∧ 255 < s.vlen.toNat) :
    writeOp op s = refused 4 s := by
  have hacc' : ¬ ¬ acceptedIn op s.ss = true := not_not.mpr ((acceptedIn_iff op s.ss).mpr hacc)
  have hlong' : op = .writeMem ∧ Config.WRITE_MAX < s.vlen.toNat := hlong
  rw [writeOp, if_neg (by simp [hb]), if_neg hacc', if_pos hlong']
  exact refuse_clearErrors hb .encodingError

theorem writeIllegalOp_idle : writeIllegalOp s = refused 9 s := by
  rw [writeIllegalOp, if_neg (by simp [hb])]
  exact refuse_clearErrors hb .illegalOp

end

/-! ### The other registers -/

theorem step_write_register {s : State} {r : HostReg} {v : Half} {rest : List Turn}
    (hturns : s.turns = .host (.write r v) :: rest) (hr : r ≠ .op) :
    step s = .next (writeRegister r v { s with turns := rest }) := by
  simp only [step, takeTurn, hturns]
  cases r with
  | op => exact absurd rfl hr
  | _ => rfl

theorem step_read_register {s : State} {r : HostReg} {rest : List Turn} (hturns : s.turns = .host (.read r) :: rest) :
    step s = .next (readRegister r { s with turns := rest }) := by
  simp only [step, takeTurn, hturns, hostTurn]

theorem step_reset {s : State} {rest : List Turn} (hturns : s.turns = .host .reset :: rest) :
    step s = .next (applyReset { s with turns := rest }) := by
  simp only [step, takeTurn, hturns, hostTurn]

theorem exists_host_of_not_blockNext {s : State} (h : blockNext s = false) : ∃ a rest, s.turns = .host a :: rest := by
  unfold blockNext at h
  split at h
  case h_3 a rest hturns => exact ⟨a, rest, hturns⟩
  all_goals cases h

/-- No action of the host stops the machine. -/
theorem step_host_goes_on {s : State} {a : HostAction} {rest : List Turn} (hturns : s.turns = .host a :: rest) :
    ∃ t, step s = .next t := by
  cases a with
  | write r v =>
    by_cases hr : r = .op
    · subst hr
      cases hop : operationOf (v.toNat % 256) with
      | none => exact ⟨_, step_write_illegal hturns hop⟩
      | some op => exact ⟨_, step_write_operation hturns hop⟩
    · exact ⟨_, step_write_register hturns hr⟩
  | read r => exact ⟨_, step_read_register hturns⟩
  | reset => exact ⟨_, step_reset hturns⟩

theorem statusByte_toNat (st : Status) :
    (statusByte st).toNat = st.busy.toNat + 2 * st.done.toNat + 4 * st.err.toNat := by
  obtain ⟨busy, done, err⟩ := st
  cases busy <;> cases done <;> cases err <;> rfl

/-- What the host reads of a register is what it holds. -/
theorem registerValue_toNat (r : HostReg) (s : State) : (registerValue r s).toNat = holds s r := by
  cases r with
  | op | aAddr | vlen | ringStart | ringEnd | mhCurrent | mhStart | mhRollStart | rollId | bytesToRead => rfl
  | status => exact (BitVec.toNat_setWidth_of_le (by decide)).trans (statusByte_toNat s.status)
  | ss =>
    simp only [registerValue, holds]
    cases s.ss <;> rfl
  | baud =>
    simp only [registerValue, holds]
    cases s.baud <;> rfl
  | errcode | errsub | errstep | aSpace | aLen | rlen | mhSetting | mhBpf | pbuf | rbuf =>
    exact BitVec.toNat_setWidth_of_le (by decide)

theorem holds_lt (r : HostReg) (s : State) : holds s r < 2 ^ hostRegWidth r := by
  cases r with
  | op => exact Nat.two_pow_pos _
  | status => exact (statusByte_toNat s.status).symm.trans_lt (BitVec.isLt _)
  | ss =>
    simp only [holds]
    cases s.ss <;> decide
  | baud =>
    simp only [holds]
    cases s.baud <;> decide
  | _ => exact BitVec.isLt _

/-- A value cut to a register's width fits it (R68, log 12). -/
theorem cut_to_width_lt (v : Half) (w : Nat) : ((v.setWidth w).setWidth 16).toNat < 2 ^ w := by
  rw [BitVec.toNat_setWidth]
  exact (Nat.mod_le ..).trans_lt (BitVec.isLt _)

section
variable {s : State} (hb : s.status.busy = false) (v : Half)
include hb

theorem writeRegister_aSpace : writeRegister .aSpace v s = { s with aSpace := v.setWidth 8 } := by
  simp [writeRegister, hb, lowByte_setWidth]

theorem writeRegister_aLen : writeRegister .aLen v s = { s with aLen := v.setWidth 8 } := by
  simp [writeRegister, hb, lowByte_setWidth]

theorem writeRegister_aAddr : writeRegister .aAddr v s = { s with aAddr := v } := by
  simp [writeRegister, hb]

theorem writeRegister_vlen : writeRegister .vlen v s = { s with vlen := v } := by
  simp [writeRegister, hb]

theorem writeRegister_pbuf (i : Fin 255) :
    writeRegister (.pbuf i) v s = { s with pbuf := s.pbuf.set i.val (v.setWidth 8) } := by
  simp [writeRegister, hb, lowByte_setWidth]

/-- Every other register is read-only (log 11). -/
theorem writeRegister_read_only {r : HostReg} (hspace : r ≠ .aSpace) (hlen : r ≠ .aLen) (haddr : r ≠ .aAddr)
    (hvlen : r ≠ .vlen) (hpbuf : ∀ i, r ≠ .pbuf i) : writeRegister r v s = s := by
  have hnot : ¬ s.status.busy = true := by simp [hb]
  cases r with
  | aSpace => exact absurd rfl hspace
  | aLen => exact absurd rfl hlen
  | aAddr => exact absurd rfl haddr
  | vlen => exact absurd rfl hvlen
  | pbuf i => exact absurd rfl (hpbuf i)
  | _ => exact if_neg hnot

end

/-! ### The obligations of the host's port -/

/-- Settles O18, branch by branch. -/
theorem writingOpFollowsTheProcedure : Obligations.WritingOpFollowsTheProcedure := by
  intro s v rest hturns
  by_cases hb : s.status.busy = true
  · rw [if_pos hb]
    cases hop : operationOf (v.toNat % 256) with
    | none => rw [step_write_illegal hturns hop, writeIllegalOp, if_pos hb]
    | some op => rw [step_write_operation hturns hop, writeOp, if_pos hb]
  · rw [if_neg hb]
    have hidle : ({ s with turns := rest } : State).status.busy = false := Bool.eq_false_iff.mpr hb
    cases hop : operationOf (v.toNat % 256) with
    | none => rw [step_write_illegal hturns hop, writeIllegalOp_idle hidle]
    | some op =>
      rw [step_write_operation hturns hop]
      dsimp only
      split_ifs with hacc hlong
      · rw [writeOp_too_long hidle hacc hlong]
      · rw [writeOp_accepted hidle hacc hlong]
      · rw [writeOp_not_accepted hidle hacc]

/-- Settles O19: the table of `acceptedIn` is R140's. -/
theorem operationsStartInTheirStates : Obligations.OperationsStartInTheirStates := by
  intro op s hb
  rw [exec_opInstr]
  refine ⟨fun hacc hfits => ?accepted, fun hacc => ?refused⟩
  case accepted => rw [writeOp_accepted hb hacc fun ⟨hop, hlong⟩ => absurd (hfits hop) (Nat.not_le.mpr hlong)]
  case refused => rw [writeOp_not_accepted hb hacc]

/-- Settles O51, register by register. -/
theorem hostWritesOperands : Obligations.HostWritesOperands := by
  intro s r v rest hturns hr
  have hstep := step_write_register hturns hr
  refine ⟨fun hb => ?busy, fun hb => ?idle⟩
  case busy =>
    have hbusy : ({ s with turns := rest } : State).status.busy = true := hb
    rw [hstep, writeRegister_busy r v hbusy]
  case idle =>
    have hidle : ({ s with turns := rest } : State).status.busy = false := hb
    refine ⟨?space, ?len, ?addr, ?vlen, ?pbuf, fun hspace hlen haddr hvlen hpbuf => ?other⟩
    case space =>
      rintro rfl
      rw [hstep, writeRegister_aSpace hidle]
    case len =>
      rintro rfl
      rw [hstep, writeRegister_aLen hidle]
    case addr =>
      rintro rfl
      rw [hstep, writeRegister_aAddr hidle]
    case vlen =>
      rintro rfl
      rw [hstep, writeRegister_vlen hidle]
    case pbuf =>
      rintro i rfl
      rw [writeRegister_pbuf hidle] at hstep
      refine ⟨_, hstep, rfl, fun j => ?_⟩
      simp [Vector.getElem_set, Fin.ext_iff, eq_comm]
    case other => rw [hstep, writeRegister_read_only hidle v hspace hlen haddr hvlen hpbuf]

/-- Settles O52: a read that R68 leaves open gives a value cut to the register's width, any other what it holds. -/
theorem hostReads : Obligations.HostReads := by
  intro s r rest hturns
  have hstep := step_read_register hturns
  by_cases hopen : ({ s with turns := rest } : State).status.busy = true ∧ unspecifiedWhileBusy r = true
  · rw [readRegister, if_pos hopen] at hstep
    refine ⟨_, _, hstep, rfl, cut_to_width_lt _ _, fun hfixed => ?_⟩
    obtain ⟨hb : s.status.busy = true, hr⟩ := hopen
    simp [hb, hr] at hfixed
  · rw [readRegister, if_neg hopen] at hstep
    refine ⟨_, _, hstep, rfl, ?width, fun _ => registerValue_toNat r _⟩
    exact (registerValue_toNat r _).trans_lt (holds_lt r _)

/-- Settles O53: no turn but the host's is looked at before reset. -/
theorem resetTakesEffectAtAnyTime : Obligations.ResetTakesEffectAtAnyTime := fun _ _ hturns =>
  ⟨_, step_reset hturns, rfl, rfl, rfl, rfl, rfl, rfl, rfl, rfl, rfl, rfl, rfl, rfl, rfl, rfl, rfl, rfl⟩

/-- Settles O54, by the definition of the reset state. -/
theorem resetValues : Obligations.ResetValues := ⟨rfl, rfl, rfl, rfl, rfl, rfl, rfl, rfl, rfl, rfl, rfl, rfl⟩

end Sys2Proof.Machine
end

section
/-! SUPPORT. The invariant is kept by every step and every instruction, and what follows from it: no step is stuck,
the session moves by its table (spec/43_session.md R149, R151), errors are those of R192. -/

namespace Sys2Proof.Machine

open Sys2Proof.Claims

/-! ### States that have the invariant -/

section
variable {t : State}

/-- After a refusal or an abort. -/
theorem inv_of_failed {k : ErrKind} (hst : t.status = ⟨false, true, true⟩) (hseq : t.seq = ⟨none, 0⟩)
    (hk : k ≠ .rangeError) (hcode : t.errcode = errorCode k) (hsub : t.errsub = errorSub k)
    (hrest : sessionAtRest t.ss t.baud) : Inv t where
  idleSeq _ := hseq
  busySeq hb := by simp [hst] at hb
  busyNotDone hb := by simp [hst] at hb
  errDone _ := by rw [hst]
  noError he := by simp [hst] at he
  anError _ := ⟨k, hk, hcode, hsub⟩
  runningSession op hop := by simp [hseq] at hop
  restSession _ := hrest
  writeFits hw := by simp [hseq] at hw
  payloadReady d hd := by simp [running, hst] at hd

/-- After reset and after a completion. -/
theorem inv_of_succeeded (hbusy : t.status.busy = false) (herr : t.status.err = false) (hseq : t.seq = ⟨none, 0⟩)
    (hzero : t.errcode = 0 ∧ t.errsub = 0 ∧ t.errstep = 0) (hrest : sessionAtRest t.ss t.baud) : Inv t where
  idleSeq _ := hseq
  busySeq hb := by simp [hbusy] at hb
  busyNotDone hb := by simp [hbusy] at hb
  errDone he := by simp [herr] at he
  noError _ := hzero
  anError he := by simp [herr] at he
  runningSession op hop := by simp [hseq] at hop
  restSession _ := hrest
  writeFits hw := by simp [hseq] at hw
  payloadReady d hd := by simp [running, hbusy] at hd

/-- While an operation runs. -/
theorem inv_of_running {op : HostOp} {k : Nat} (hst : t.status = ⟨true, false, false⟩) (hseq : t.seq = ⟨some op, k + 1⟩)
    (hk : k < stepCount op) (hzero : t.errcode = 0 ∧ t.errsub = 0 ∧ t.errstep = 0)
    (hsession : sessionWhileRunning op (k + 1) t.ss t.baud) (hfits : op = .writeMem → t.vlen.toNat ≤ 255)
    (hready : ∀ d, (stepList t op)[k]? = some (.decode d) → t.rlen.toNat = decodeLength d) : Inv t where
  idleSeq hb := by simp [hst] at hb
  busySeq _ := ⟨op, by rw [hseq], by rw [hseq]; exact Nat.le_add_left .., by rw [hseq, stepList_length]; exact hk⟩
  busyNotDone _ := by rw [hst]
  errDone he := by simp [hst] at he
  noError _ := hzero
  anError he := by simp [hst] at he
  runningSession op' hop := by
    obtain rfl : op = op' := by simpa [hseq] using hop
    rwa [hseq]
  restSession hb := by simp [hst] at hb
  writeFits hw := hfits (by simpa [hseq] using hw)
  payloadReady d hd := by
    obtain ⟨-, op', k', hseq', hstep⟩ := exists_seq_of_running hd
    rw [hseq] at hseq'
    cases hseq'
    exact hready d hstep

end

namespace Inv

variable {s t : State}

/-! ### What the invariant says of a running operation -/

theorem status_of_busy (h : Inv s) (hb : s.status.busy = true) : s.status = ⟨true, false, false⟩ := by
  have hdone := h.busyNotDone hb
  have herr : s.status.err = false := Bool.eq_false_iff.mpr fun he => by simp [h.errDone he] at hdone
  change Status.mk s.status.busy s.status.done s.status.err = _
  rw [hb, hdone, herr]

theorem err_of_busy (h : Inv s) (hb : s.status.busy = true) : s.status.err = false := by
  rw [h.status_of_busy hb]

theorem exists_running (h : Inv s) (hb : s.status.busy = true) : ∃ a, running s = some a := by
  obtain ⟨op, hcur, hfirst, hlast⟩ := h.busySeq hb
  obtain ⟨k, hk⟩ := Nat.exists_eq_add_of_le' hfirst
  rw [stepList_length] at hlast
  obtain ⟨a, ha⟩ := currentAction_of_seq (k := k) (congrArg₂ Seq.mk hcur hk) (by omega)
  exact ⟨a, (running_of_busy hb).trans ha⟩

/-- `SS` of a running operation is one of the four open states (R140). -/
theorem open_of_busy (h : Inv s) (hb : s.status.busy = true) :
    s.ss ∈ [SessionState.idle, .awake, .identified, .fastMode] := by
  obtain ⟨op, hcur, -⟩ := h.busySeq hb
  have hsession := h.runningSession op hcur
  cases op with
  | start => obtain ⟨-, ⟨-, hss⟩ | ⟨-, hss⟩⟩ := hsession <;> rw [hss] <;> decide
  | upgrade | endFast | close =>
    obtain ⟨hss, -⟩ := hsession
    rw [hss]
    decide
  | focus | shoot | readMem | writeMem | readMemoInfo | getRingAddrs | getMhAddrs | getMhSetting =>
    obtain ⟨hss, -⟩ | ⟨hss, -⟩ := hsession <;> rw [hss] <;> decide

theorem idle_of_ended (h : Inv s) (hended : s.ss = .closed ∨ s.ss = .desync) : s.status.busy = false := by
  refine Bool.eq_false_iff.mpr fun hb => ?_
  have hopen := h.open_of_busy hb
  rcases hended with hss | hss <;> rw [hss] at hopen <;> exact absurd hopen (by decide)

/-- The errors the running step can raise are those of its kind. -/
theorem canRaise (h : Inv s) {a : Action} {k : ErrKind} {u : State} (hr : running s = some a)
    (he : attempt a s = .error (k, u)) : CanRaise a k := by
  refine attempt_error he (fun d hd => h.payloadReady d (hd ▸ hr)) (fun i hi => ?_)
  obtain ⟨op, -, hmem⟩ := currentAction_mem (running_some hr).2
  exact stepList_send_encodes (hi ▸ hmem)

/-- A step's work that succeeds raises no flag. -/
theorem err_of_attempt_ok (h : Inv s) (hb : s.status.busy = true) {a : Action} {u : State} (hu : attempt a s = .ok u) :
    u.status.err = false := by
  have hc := attempt_sameControl a s
  rw [hu] at hc
  exact (congrArg Status.err hc.status).trans (h.err_of_busy hb)

/-- An abort leaves the number of the step that ran (R197). -/
theorem errstep_of_abort (h : Inv s) (hb : s.status.busy = true) {a : Action} {k : ErrKind} {u : State}
    (hu : attempt a s = .error (k, u)) : (abort k u).errstep.toNat = s.seq.step := by
  have hc := attempt_sameControl a s
  rw [hu] at hc
  have hat : u.seq.step = s.seq.step := congrArg Seq.step hc.seq
  obtain ⟨op, -, -, hlast⟩ := h.busySeq hb
  rw [stepList_length] at hlast
  have hsix := stepCount_le op
  rw [abort_errstep, BitVec.toNat_ofNat, hat]
  omega

/-! ### What keeps it -/

/-- The model's own fields may change at any time. -/
theorem with_model (h : Inv s) (ts : List Turn) (as : List Answer) (l : List HostRead) (d : Nat) :
    Inv { s with turns := ts, answers := as, readLog := l, draws := d } :=
  ⟨h.idleSeq, h.busySeq, h.busyNotDone, h.errDone, h.noError, h.anError, h.runningSession, h.restSession, h.writeFits,
    h.payloadReady⟩

theorem after_writeRegister (h : Inv s) (r : HostReg) (v : Half) : Inv (writeRegister r v s) := by
  cases hb : s.status.busy with
  | true => rwa [writeRegister_busy r v hb]
  | false =>
    obtain ⟨a, b, c, d, p, hreg⟩ := writeRegister_frame r v s
    rw [hreg]
    exact ⟨h.idleSeq, fun hbusy => absurd (hb.symm.trans hbusy) (by decide), h.busyNotDone, h.errDone, h.noError,
      h.anError, h.runningSession, h.restSession, fun hw => by simp [h.idleSeq hb] at hw,
      fun d hd => by simp [running, hb] at hd⟩

theorem after_readRegister (h : Inv s) (r : HostReg) : Inv (readRegister r s) := by
  obtain ⟨l, n, hread⟩ := readRegister_frame r s
  rw [hread]
  exact h.with_model s.turns s.answers l n

theorem after_reset (s : State) : Inv (applyReset s) := inv_of_succeeded rfl rfl rfl ⟨rfl, rfl, rfl⟩ rfl

theorem after_refuse (h : Inv s) (hb : s.status.busy = false) {k : ErrKind} (hk : k ≠ .rangeError)
    (hsub : errorSub k = 0) :
    Inv (refuse k (clearErrors s)) :=
  inv_of_failed (k := k) (by simp [hb]) (h.idleSeq hb) hk rfl hsub.symm (h.restSession hb)

/-- The states that accept an operation are those its first step runs in (R140). -/
theorem sessionWhileRunning_first {op : HostOp} {x : SessionState} {b : LineSpeed} (hacc : acceptedIn op x = true)
    (hrest : sessionAtRest x b) : sessionWhileRunning op 1 x b := by
  cases op with
  | start =>
    obtain rfl : x = .idle := of_decide_eq_true hacc
    exact ⟨hrest, .inl ⟨rfl, rfl⟩⟩
  | upgrade =>
    obtain rfl : x = .identified := of_decide_eq_true hacc
    exact ⟨rfl, .inl ⟨by decide, hrest⟩⟩
  | endFast =>
    obtain rfl : x = .fastMode := of_decide_eq_true hacc
    exact ⟨rfl, .inl ⟨by decide, hrest⟩⟩
  | close =>
    obtain rfl : x = .identified := of_decide_eq_true hacc
    exact ⟨rfl, hrest⟩
  | focus | shoot | readMem | writeMem | readMemoInfo | getRingAddrs | getMhAddrs | getMhSetting =>
    have hx : x = .identified ∨ x = .fastMode := of_decide_eq_true hacc
    exact hx.imp (fun hx => by subst hx; exact ⟨rfl, hrest⟩) (fun hx => by subst hx; exact ⟨rfl, hrest⟩)

theorem after_writeOp (h : Inv s) (op : HostOp) : Inv (writeOp op s) := by
  rcases writeOp_cases op s with ⟨-, hw⟩ | ⟨hb, -, hw⟩ | ⟨hb, -, -, -, hw⟩ | ⟨hb, hacc, hfits, hw⟩ <;> rw [hw]
  · exact h
  · exact h.after_refuse hb nofun rfl
  · exact h.after_refuse hb nofun rfl
  · refine inv_of_running (by simp) rfl (by cases op <;> decide) ⟨rfl, rfl, rfl⟩
      (sessionWhileRunning_first hacc (h.restSession hb)) hfits fun d hd => ?_
    exact absurd (stepList_decode hd).1 (by decide)

theorem after_writeIllegalOp (h : Inv s) : Inv (writeIllegalOp s) := by
  unfold writeIllegalOp
  split_ifs with hb
  · exact h
  · exact h.after_refuse (Bool.eq_false_iff.mpr hb) nofun rfl

/-- A step's work, when it moves `SS`, `BAUD` and `RLEN` as the running step does and raises no `RangeError`, ends in a
state with the invariant. -/
theorem after_conclude (h : Inv s) {a : Action} {r : Except (ErrKind × State) State} (hr : running s = some a)
    (hctl : SameControl s (attemptState r))
    (hok : ∀ u, r = .ok u → u.ss = ssAfter a s.ss ∧ u.baud = baudAfter a s.baud ∧ u.rlen = rlenAfter a s.rlen)
    (herr : ∀ k u, r = .error (k, u) → k ≠ .rangeError) : Inv (conclude r) := by
  obtain ⟨hb, op, k, hseq, hstep⟩ := exists_seq_of_running hr
  have hk := lt_stepCount_of_stepList hstep
  rcases r with ⟨e, u⟩ | u
  case error => exact inv_of_failed rfl rfl (herr e u rfl) rfl rfl trivial
  case ok =>
    obtain ⟨hss, hbaud, hrlen⟩ := hok u rfl
    have hctl : SameControl s u := hctl
    have hst : u.status = ⟨true, false, false⟩ := hctl.status.trans (h.status_of_busy hb)
    have hzero : u.errcode = 0 ∧ u.errsub = 0 ∧ u.errstep = 0 := by
      rw [hctl.errcode, hctl.errsub, hctl.errstep]
      exact h.noError (h.err_of_busy hb)
    have hsession := h.runningSession op (by rw [hseq])
    rw [hseq] at hsession
    obtain ⟨hnext, hend⟩ := session_step hstep (Nat.le_add_left ..) hk hsession
    rw [← hss, ← hbaud] at hnext hend
    have hseq' : u.seq = ⟨some op, k + 1⟩ := hctl.seq.trans hseq
    rcases Nat.lt_or_ge (k + 1) (stepCount op) with hmore | hlast
    · rw [conclude, finishStep_next hseq' hmore]
      refine inv_of_running hst rfl hmore hzero (hnext hmore) (fun hw => ?_) fun d hd => ?_
      · exact hctl.vlen ▸ h.writeFits (by rw [hseq, hw])
      · have hd' : (stepList s op)[k + 1]? = some (.decode d) := hctl.stepList op ▸ hd
        exact hrlen ▸ decode_after hstep (Nat.le_add_left ..) hd' s.rlen
    · rw [conclude, finishStep_last hseq' hlast]
      exact inv_of_succeeded rfl (congrArg Status.err hst) rfl hzero (hend (le_antisymm hk hlast))

theorem ne_rangeError_of_canRaise {a : Action} {k : ErrKind} (h : CanRaise a k) : k ≠ .rangeError := by
  rintro rfl
  cases a <;> simp [CanRaise] at h

/-- The running step keeps the invariant. -/
theorem after_attempt (h : Inv s) {a : Action} (hr : running s = some a) : Inv (conclude (attempt a s)) :=
  h.after_conclude hr (attempt_sameControl a s) (fun _ => attempt_ok) fun _ _ he =>
    ne_rangeError_of_canRaise (h.canRaise hr he)

theorem after_step (h : Inv s) (hstep : step s = .next t) : Inv t := by
  have hturns : ∀ ts, Inv { s with turns := ts } := fun ts => h.with_model ts s.answers s.readLog s.draws
  rcases step_cases hstep with ⟨-, s', rfl, ⟨-, rfl⟩ | ⟨hb, a, ha, rfl⟩⟩ | ⟨a, rest, -, s', rfl, hact⟩
  · exact hturns _
  · exact (hturns _).after_attempt ((running_of_busy hb).trans ha)
  · rcases hact with ⟨v, op, -, rfl⟩ | ⟨v, -, rfl⟩ | ⟨r, v, -, -, rfl⟩ | ⟨r, -, rfl⟩ | ⟨-, rfl⟩
    · exact (hturns rest).after_writeOp op
    · exact (hturns rest).after_writeIllegalOp
    · exact (hturns rest).after_writeRegister r v
    · exact (hturns rest).after_readRegister r
    · exact Inv.after_reset _

theorem after_receive (h : Inv s) (a : Answer) : Inv (receive a s) := by
  rcases receive_cases a s with hsame | ⟨x, n, hr, hx⟩
  · rwa [hsame]
  · rw [receive_of_reading a hr hx]
    exact (h.with_model s.turns (a :: s.answers) s.readLog s.draws).after_attempt hr

/-- A command at its step keeps the invariant whatever its operands: it moves the session as its row does. -/
theorem after_command (h : Inv s) {i c : Instr} {bs : List Byte} (hr : running s = some (.send c))
    (hrow : tableRow c = tableRow i) (he : encode i = .ok bs) : Inv (conclude (attempt (.send i) s)) := by
  have hwake : c = .wakeup ↔ i = .wakeup := by rw [eq_wakeup_iff, eq_wakeup_iff, hrow]
  have hss : ssAfter (.send i) s.ss = ssAfter (.send c) s.ss := by simp only [ssAfter, hwake]
  refine h.after_conclude hr (attempt_sameControl _ s) (fun u hu => hss ▸ attempt_ok hu) fun k u hu => ?_
  exact ne_rangeError_of_canRaise (attempt_error hu nofun fun j hj => ⟨bs, by cases hj; exact he⟩)

/-- A write too long to encode ends its operation as a refusal does (log 6). -/
theorem after_too_long (h : Inv s) (hseq : s.seq = ⟨some .writeMem, 1⟩) :
    Inv (complete (refuse .encodingError s)) := by
  have hsession := h.runningSession .writeMem (by rw [hseq])
  refine inv_of_failed (k := .encodingError) rfl rfl nofun rfl rfl ?_
  change sessionAtRest s.ss s.baud
  obtain ⟨hss, hbaud⟩ | ⟨hss, hbaud⟩ := hsession <;> rw [hss, hbaud] <;> rfl

theorem after_exec (h : Inv s) {i : Instr} (hexec : exec i s = .next t) : Inv t := by
  cases hp : i.port with
  | hostOp =>
    obtain ⟨op, rfl⟩ := eq_opInstr_of_port hp
    rw [exec_opInstr] at hexec
    cases hexec
    exact h.after_writeOp op
  | toDevice =>
    cases hsends : sendsRow s i with
    | false =>
      rw [exec_elsewhere hp hsends] at hexec
      cases hexec
      exact h
    | true =>
      cases he : encode i with
      | ok bs =>
        obtain ⟨c, hr, hrow⟩ := sendsRow_iff_running.mp hsends
        rw [exec_at_its_step hp hsends he] at hexec
        cases hexec
        exact h.after_command hr hrow he
      | error k =>
        obtain ⟨rfl, a, v, rfl⟩ := encode_error he
        obtain ⟨-, op, k, hat, hseq⟩ := sendsRow_iff.mp hsends
        obtain ⟨rfl, rfl⟩ : op = .writeMem ∧ k = 1 := by simpa [sentAt] using hat
        rw [exec_too_long hp hsends he] at hexec
        cases hexec
        exact h.after_too_long hseq
  | fromDevice =>
    obtain ⟨bs, he⟩ := encode_of_fromDevice hp
    rw [exec_fromDevice hp he] at hexec
    cases hexec
    exact h.after_receive _

end Inv

/-! ### Where the steps of an operation write `SS` -/

/-- The rows of R149 that are steps: the operation, how many of its steps are done, `SS` before and after. -/
def sessionTable : List (HostOp × Nat × SessionState × SessionState) :=
  [(.start, 0, .idle, .awake), (.start, 5, .awake, .identified), (.upgrade, 4, .identified, .fastMode),
    (.endFast, 4, .fastMode, .identified), (.close, 0, .identified, .closed)]

/-- Only `Wakeup` and an `SS` step change `SS`, and the lists have them where the table says. -/
theorem mem_sessionTable {s : State} {op : HostOp} {k : Nat} {a : Action} {x : SessionState} {b : LineSpeed}
    (hstep : (stepList s op)[k]? = some a) (hsession : sessionWhileRunning op (k + 1) x b) (hne : x ≠ ssAfter a x) :
    (op, k, x, ssAfter a x) ∈ sessionTable := by
  cases a with
  | send i =>
    by_cases hi : i = .wakeup
    case neg => exact absurd (if_neg hi).symm hne
    subst hi
    obtain ⟨rfl, rfl⟩ : op = .start ∧ k = 0 := by simpa [sentAt] using mem_sentAt_of_stepList hstep
    obtain ⟨-, ⟨-, rfl⟩ | ⟨hlate, -⟩⟩ := hsession
    · decide
    · exact absurd hlate (by decide)
  | enter y =>
    have hplace := stepList_enter hstep
    simp only [List.mem_cons, Prod.mk.injEq, List.not_mem_nil, or_false] at hplace
    obtain ⟨rfl, rfl, rfl⟩ | ⟨rfl, rfl, rfl⟩ | ⟨rfl, rfl, rfl⟩ | ⟨rfl, rfl, rfl⟩ := hplace
    case inl =>
      obtain ⟨-, ⟨hfirst, -⟩ | ⟨-, rfl⟩⟩ := hsession
      · exact absurd hfirst (by decide)
      · decide
    all_goals
      obtain ⟨rfl, -⟩ := hsession
      decide
  | _ => exact absurd rfl hne

/-! ### A decode step is the last of its operation -/

/-- If what a decoder alone writes has changed, written `¬ P`, the decoder has run and completed its operation. -/
theorem Inv.decode_completes {s : State} {a : Action} {d : Decoder} {P : State → Prop} (h : Inv s)
    (hr : running s = some a) (hbefore : P s) (hkept : a ≠ .decode d → P (attemptState (attempt a s)))
    (hafter : ¬ P (attemptState (attempt a s))) :
    s.seq = ⟨some (decoderOp d), 3⟩ ∧ (conclude (attempt a s)).status = ⟨false, true, false⟩ := by
  obtain rfl : a = .decode d := by_contra fun hnot => hafter (hkept hnot)
  obtain ⟨hb, op, k, hseq, hstep⟩ := exists_seq_of_running hr
  obtain ⟨rfl, rfl, hlast⟩ := stepList_decode hstep
  refine ⟨hseq, ?_⟩
  have hc := attempt_sameControl (.decode d) s
  rcases hu : attempt (.decode d) s with ⟨e, u⟩ | u <;> rw [hu] at hc hafter
  case error =>
    rw [attempt_decode_error hu] at hafter
    exact absurd hbefore hafter
  case ok =>
    have hc : SameControl s u := hc
    rw [conclude, finishStep_last (hc.seq.trans hseq) hlast.le]
    simp [h.err_of_attempt_ok hb hu]

/-! ### The errors a step can raise are those of R192 -/

section
variable {s : State} {op : HostOp} {k : Nat} {a : Action} {e : ErrKind}

theorem transportError_mem_errorTable (hstep : (stepList s op)[k]? = some a) (h : CanRaise a .transportError) :
    (op, k + 1, 1, 0) ∈ errorTable := by
  have hk := lt_stepCount_of_stepList hstep
  revert h
  cases op <;> simp only [stepCount] at hk <;> interval_cases k <;> cases hstep <;> simp [CanRaise, errorTable]

theorem validationError_mem_errorTable {r : FixedResponse} (hstep : (stepList s op)[k]? = some (.expect r)) :
    (op, k + 1, 3, (validationSub r).toNat) ∈ errorTable := by
  have hk := lt_stepCount_of_stepList hstep
  cases op <;> simp only [stepCount] at hk <;> interval_cases k <;> cases hstep <;> decide

/-- The packet of READ_MEM alone can be empty (R159). -/
theorem stepList_packet {n : Nat} (hstep : (stepList s op)[k]? = some (.packet n)) :
    k = 1 ∧ (op = .readMem ∧ n = s.aLen.toNat ∨
      n ≠ 0 ∧ op ∈ [HostOp.readMemoInfo, .getRingAddrs, .getMhAddrs, .getMhSetting]) := by
  have hk := lt_stepCount_of_stepList hstep
  cases op <;> simp only [stepCount] at hk <;> interval_cases k <;> cases hstep <;> simp

theorem frameError_mem_errorTable {n : Nat} {f : FrameErr} (hstep : (stepList s op)[k]? = some (.packet n))
    (hshort : f = .tooShort → n = 0) : (op, k + 1, 2, (frameSub f).toNat) ∈ errorTable := by
  obtain ⟨rfl, ⟨rfl, -⟩ | ⟨hn, hop⟩⟩ := stepList_packet hstep
  · cases f <;> decide
  · have hall : ∀ op ∈ [HostOp.readMemoInfo, .getRingAddrs, .getMhAddrs, .getMhSetting],
        (op, 2, 2, 2) ∈ errorTable ∧ (op, 2, 2, 3) ∈ errorTable ∧ (op, 2, 2, 4) ∈ errorTable := by decide
    obtain ⟨hstart, hend, hsum⟩ := hall op hop
    cases f with
    | tooShort => exact absurd (hshort rfl) hn
    | badStart => exact hstart
    | badEnd => exact hend
    | badChecksum => exact hsum

theorem mem_errorTable_of_canRaise (hstep : (stepList s op)[k]? = some a) (h : CanRaise a e) :
    (op, k + 1, (errorCode e).toNat, (errorSub e).toNat) ∈ errorTable := by
  cases a with
  | delay | enter => exact h.elim
  | send | clear | setBaud =>
    cases h
    exact transportError_mem_errorTable hstep rfl
  | expect r =>
    obtain rfl | rfl := h
    · exact transportError_mem_errorTable hstep (.inl rfl)
    · exact validationError_mem_errorTable hstep
  | packet n =>
    obtain rfl | ⟨f, rfl, hshort⟩ := h
    · exact transportError_mem_errorTable hstep (.inl rfl)
    · exact frameError_mem_errorTable hstep hshort
  | decode d =>
    obtain ⟨rfl, rfl, -⟩ := stepList_decode hstep
    obtain ⟨rfl, rfl⟩ | ⟨rfl, rfl⟩ := h <;> decide

/-- `TooShort` comes only from the packet of READ_MEM with `A_LEN` = 0 (R159). -/
theorem readMem_of_tooShort (hstep : (stepList s op)[k]? = some a) (h : CanRaise a (.frameError .tooShort)) :
    op = .readMem ∧ s.aLen = 0 := by
  cases a with
  | packet n =>
    obtain h | ⟨f, hf, hshort⟩ := h
    · cases h
    · cases hf
      obtain rfl := hshort rfl
      obtain ⟨-, ⟨hop, hlen⟩ | ⟨hn, -⟩⟩ := stepList_packet hstep
      · exact ⟨hop, BitVec.eq_of_toNat_eq hlen.symm⟩
      · exact absurd rfl hn
  | _ => simp [CanRaise] at h

theorem eq_tooShort_of_codes (hcode : errorCode e = 2) (hsub : errorSub e = 1) : e = .frameError .tooShort := by
  cases e with
  | frameError f =>
    cases f with
    | tooShort => rfl
    | _ => exact absurd hsub (by decide)
  | _ => simp [errorCode] at hcode

theorem refusals_mem_errorTable (op : HostOp) : (op, 0, 8, 0) ∈ errorTable := by
  cases op <;> decide

end

/-! ### The obligations on runs -/

/-- Settles O39: a reset block is idle, without error, in Idle at the default speed. -/
theorem invariantAtReset : Obligations.InvariantAtReset := inv_of_succeeded rfl rfl rfl ⟨rfl, rfl, rfl⟩ rfl

/-- Settles O40, by who moves: the running step, or the host with one of its actions. -/
theorem stepKeepsInvariant : Obligations.StepKeepsInvariant := fun _ _ h => h.after_step

/-- Settles O41, port by port: an `OP` write, a command at its step or elsewhere, an arrival. -/
theorem instructionKeepsInvariant : Obligations.InstructionKeepsInvariant := fun _ _ _ h => h.after_exec

/-- Settles O42: the invariant puts a busy block at a step of its list; nothing else can stop. -/
theorem stepAlwaysGoesOn : Obligations.StepAlwaysGoesOn := by
  intro s h
  cases hblock : blockNext s with
  | true =>
    cases hb : s.status.busy with
    | true =>
      obtain ⟨a, hr⟩ := h.exists_running hb
      exact ⟨_, step_busy hblock hb (running_some hr).2⟩
    | false => exact ⟨_, (step_block hblock).trans (sequencerTurn_idle (s := { s with turns := s.turns.drop 1 }) hb)⟩
  | false =>
    obtain ⟨a, rest, hturns⟩ := exists_host_of_not_blockNext hblock
    exact step_host_goes_on hturns

/-- Settles O43: the invariant holds of the state after the step. -/
theorem speedFollowsTheSession : Obligations.SpeedFollowsTheSession := by
  intro s t h hstep hidle
  have hrest := (h.after_step hstep).restSession hidle
  refine ⟨fun hss => ?default, fun hss => ?fast, fun hss => ?awake⟩
  case default => rcases hss with hss | hss | hss <;> rw [hss] at hrest <;> exact hrest
  case fast =>
    rw [hss] at hrest
    exact hrest
  case awake =>
    rw [hss] at hrest
    exact hrest

/-- Settles O44: only `Wakeup`, an `SS` step and an abort write `SS`, and the lists have them where the table says. -/
theorem sessionChangesByTheTable : Obligations.SessionChangesByTheTable := by
  intro s t h hstep hne
  rcases step_movers hstep with ⟨-, -, rfl⟩ | ⟨hblock, hb, a, hr, rfl⟩ | ⟨-, hframe⟩ | ⟨hreset, rest, rfl⟩
  · exact absurd rfl hne
  · refine .inl ⟨hblock, hb, ?_⟩
    obtain ⟨-, op, k, hseq, hstepk⟩ := exists_seq_of_running hr
    rcases hu : attempt a { s with turns := s.turns.drop 1 } with ⟨e, u⟩ | u
    case error => exact .inr (.inr (.inr (.inr (.inr ⟨h.open_of_busy hb, rfl, rfl⟩))))
    case ok =>
      have hss : (conclude (.ok u)).ss = ssAfter a s.ss := (finishStep_ss u).trans (attempt_ok hu).1
      rw [hu, hss] at hne
      have hsession := h.runningSession op (by rw [hseq])
      rw [hseq] at hsession
      have hrow := mem_sessionTable hstepk hsession hne
      rw [← hss] at hrow
      simp only [sessionTable, List.mem_cons, Prod.mk.injEq, List.not_mem_nil, or_false] at hrow
      obtain ⟨rfl, rfl, hx⟩ | ⟨rfl, rfl, hx⟩ | ⟨rfl, rfl, hx⟩ | ⟨rfl, rfl, hx⟩ | ⟨rfl, rfl, hx⟩ := hrow
      · exact .inl ⟨hseq, hx⟩
      · exact .inr (.inl ⟨hseq, hx⟩)
      · exact .inr (.inr (.inl ⟨hseq, hx⟩))
      · exact .inr (.inr (.inr (.inl ⟨hseq, hx⟩)))
      · exact .inr (.inr (.inr (.inr (.inl ⟨hseq, hx⟩))))
  · exact absurd hframe.ss.symm hne
  · exact .inr ⟨hreset, rfl⟩

/-- Settles O45: no operation runs in an ended session, before the step or after it. -/
theorem endedSessionsStaySilent : Obligations.EndedSessionsStaySilent := by
  intro s t h hended hreset hstep
  obtain ⟨hss, htrace, hbaud⟩ : t.ss = s.ss ∧ t.trace = s.trace ∧ t.baud = s.baud := by
    rcases step_movers hstep with ⟨-, -, rfl⟩ | ⟨-, hb, -⟩ | ⟨-, hframe⟩ | ⟨hreset', -⟩
    · exact ⟨rfl, rfl, rfl⟩
    · exact absurd ((h.idle_of_ended hended).symm.trans hb) (by decide)
    · exact ⟨hframe.ss, hframe.trace, hframe.baud⟩
    · exact absurd (hreset.symm.trans hreset') (by decide)
  have hidle := (h.after_step hstep).idle_of_ended (hss ▸ hended)
  exact ⟨hss, htrace, hbaud, hidle, (h.after_step hstep).idleSeq hidle⟩

/-- Settles O48: only a decode step writes result registers, and one that changes them is the last of its operation. -/
theorem resultRegistersChangeOnlyOnSuccess : Obligations.ResultRegistersChangeOnlyOnSuccess := by
  intro s t h hstep hreset
  rcases step_movers hstep with ⟨-, -, rfl⟩ | ⟨-, -, a, hr, rfl⟩ | ⟨-, hframe⟩ | ⟨hreset', -⟩
  · exact ⟨absurd ⟨rfl, rfl⟩, absurd ⟨rfl, rfl, rfl⟩, absurd ⟨rfl, rfl⟩, absurd ⟨rfl, rfl⟩⟩
  · have hinv := h.with_model (s.turns.drop 1) s.answers s.readLog s.draws
    have hkept := attempt_frame a { s with turns := s.turns.drop 1 }
    obtain ⟨st, c, b, e, x, q, rb, rl, d, hend⟩ := conclude_frame (attempt a { s with turns := s.turns.drop 1 })
    refine ⟨fun hne => ?ring, fun hne => ?mhAddrs, fun hne => ?mhSetting, fun hne => ?memoInfo⟩ <;> rw [hend] at hne
    case ring =>
      exact hinv.decode_completes (P := fun u => u.ringStart = s.ringStart ∧ u.ringEnd = s.ringEnd) hr ⟨rfl, rfl⟩
        hkept.ring hne
    case mhAddrs =>
      exact hinv.decode_completes (P := fun u => u.mhCurrent = s.mhCurrent ∧ u.mhStart = s.mhStart ∧
        u.mhRollStart = s.mhRollStart) hr ⟨rfl, rfl, rfl⟩ hkept.mhAddrs hne
    case mhSetting =>
      exact hinv.decode_completes (P := fun u => u.mhSetting = s.mhSetting ∧ u.mhBpf = s.mhBpf) hr ⟨rfl, rfl⟩
        hkept.mhSetting hne
    case memoInfo =>
      exact hinv.decode_completes (P := fun u => u.rollId = s.rollId ∧ u.bytesToRead = s.bytesToRead) hr ⟨rfl, rfl⟩
        hkept.memoInfo hne
  · exact ⟨absurd hframe.ring, absurd hframe.mhAddrs, absurd hframe.mhSetting, absurd hframe.memoInfo⟩
  · exact absurd (hreset.symm.trans hreset') (by decide)

/-- Settles O46: an aborted step has raised an error of its kind, and a refusal has the code of the check that
failed. -/
theorem errorsAreThoseOfTheTable : Obligations.ErrorsAreThoseOfTheTable := by
  refine ⟨fun s t op h hblock hb hcur hstep herr => ?step, fun s t op hb hexec herr => ?accept,
    fun s v rest hb hturns hop => ?illegal⟩
  case step =>
    obtain ⟨a, hr⟩ := h.exists_running hb
    obtain ⟨-, op', k, hseq, hstepk⟩ := exists_seq_of_running hr
    obtain rfl : op' = op := by simpa [hseq] using hcur
    have hinv := h.with_model (s.turns.drop 1) s.answers s.readLog s.draws
    have hnext := step_busy hblock hb (running_some hr).2
    rcases hu : attempt a { s with turns := s.turns.drop 1 } with ⟨e, u⟩ | u <;> rw [hu] at hnext <;>
      obtain rfl := Host.Outcome.next.inj (hnext.symm.trans hstep)
    case error =>
      have hcan := hinv.canRaise hr hu
      have hat : (conclude (.error (e, u))).errstep.toNat = s.seq.step := hinv.errstep_of_abort hb hu
      rw [hat]
      refine ⟨?_, rfl, fun hcode hsub => ?_⟩
      · rw [hseq]
        exact mem_errorTable_of_canRaise hstepk hcan
      · obtain rfl := eq_tooShort_of_codes hcode hsub
        exact readMem_of_tooShort hstepk hcan
    case ok =>
      have hnone : (finishStep u).status.err = false := (finishStep_err u).trans (hinv.err_of_attempt_ok hb hu)
      exact absurd (hnone.symm.trans herr) (by decide)
  case accept =>
    rw [exec_opInstr] at hexec
    cases hexec
    by_cases hacc : s.ss ∈ acceptedStates op
    case neg =>
      rw [writeOp_not_accepted hb hacc]
      exact ⟨refusals_mem_errorTable op, rfl⟩
    by_cases hlong : op = .writeMem ∧ 255 < s.vlen.toNat
    · rw [writeOp_too_long hb hacc hlong]
      obtain ⟨rfl, -⟩ := hlong
      have hmem : (HostOp.writeMem, 0, 4, 0) ∈ errorTable := by decide
      exact ⟨hmem, rfl⟩
    · rw [writeOp_accepted hb hacc hlong] at herr
      cases herr
  case illegal =>
    have hidle : ({ s with turns := rest } : State).status.busy = false := hb
    rw [step_write_illegal hturns hop, writeIllegalOp_idle hidle]

end Sys2Proof.Machine
end

section
/-! SUPPORT. START and CLOSE (spec/43_session.md R143, R148), READ_MEM of no bytes (R159), and the session of the
subcommand `focus` (spec/30_encoding.md R96), whose three calls are these operations and FOCUS. -/

namespace Sys2Proof.Machine

open Sys2Proof.Claims

/-! ### START, step by step -/

section
variable {s : State} {d1 d3 d4 r : List Byte} {rest : List Answer} (hf : free s) (hss : s.ss = .idle)
include hf hss

theorem start_starts : ranTo .start 0 s (underway .start s 0 s.answers []) :=
  ranTo_starts (op := .start) hf (decide_eq_true hss) nofun

theorem start_wakeup_fails (ha : s.answers = .err :: rest) :
    ranTo .start 1 s (aborted s 1 rest [.write [0x00] false] 1 0) :=
  ranTo_aborts (rest := rest) (start_starts hf hss) hf.2 rfl (attempt_send_err rfl ha)

/-- `Wakeup` enters `Awake`, and the line settles. -/
theorem start_settled (ha : s.answers = .ok d1 :: rest) :
    ranTo .start 2 s (underway .start { s with ss := .awake } 2 rest [.write [0x00] true, .delay 200]) :=
  have hwoken : ranTo .start 1 s (underway .start { s with ss := .awake } 1 rest [.write [0x00] true]) :=
    ranTo_goes_on (v := { s with ss := .awake }) (start_starts hf hss) hf.2 rfl (attempt_send_ok rfl ha)
  ranTo_goes_on hwoken hf.2 rfl (attempt_delay _)

theorem start_clear_fails (ha : s.answers = .ok d1 :: .err :: rest) :
    ranTo .start 3 s (aborted s 3 rest [.write [0x00] true, .delay 200, .clear false] 1 0) :=
  ranTo_aborts (rest := rest) (start_settled hf hss ha) hf.2 rfl (attempt_clear_err rfl)

theorem start_cleared (ha : s.answers = .ok d1 :: .ok d3 :: rest) :
    ranTo .start 3 s (underway .start { s with ss := .awake } 3 rest
      [.write [0x00] true, .delay 200, .clear true]) :=
  ranTo_goes_on (v := { s with ss := .awake }) (start_settled hf hss ha) hf.2 rfl (attempt_clear_ok rfl)

theorem start_inquiry_fails (ha : s.answers = .ok d1 :: .ok d3 :: .err :: rest) :
    ranTo .start 4 s (aborted s 4 rest
      [.write [0x00] true, .delay 200, .clear true, .write Config.INQUIRY_CMD false] 1 0) :=
  ranTo_aborts (rest := rest) (start_cleared hf hss ha) hf.2 rfl (attempt_send_err rfl rfl)

theorem start_inquired (ha : s.answers = .ok d1 :: .ok d3 :: .ok d4 :: rest) :
    ranTo .start 4 s (underway .start { s with ss := .awake } 4 rest
      [.write [0x00] true, .delay 200, .clear true, .write Config.INQUIRY_CMD true]) :=
  ranTo_goes_on (v := { s with ss := .awake }) (start_cleared hf hss ha) hf.2 rfl
    (attempt_send_keeps_session (by decide) rfl rfl)

theorem start_read_fails (ha : s.answers = .ok d1 :: .ok d3 :: .ok d4 :: .err :: rest) :
    ranTo .start 5 s (aborted s 5 rest
      [.write [0x00] true, .delay 200, .clear true, .write Config.INQUIRY_CMD true, .read 16 none] 1 0) :=
  ranTo_aborts (rest := rest) (start_inquired hf hss ha) hf.2 rfl (attempt_expect_err rfl)

theorem start_id_differs (ha : s.answers = .ok d1 :: .ok d3 :: .ok d4 :: .ok r :: rest) (hlen : r.length = 16)
    (hne : r ≠ Config.UNIT_ID_RESP) :
    ranTo .start 5 s (aborted s 5 rest
      [.write [0x00] true, .delay 200, .clear true, .write Config.INQUIRY_CMD true, .read 16 (some r)] 3 2) :=
  ranTo_aborts (rest := rest) (start_inquired hf hss ha) hf.2 rfl
    ((attempt_expect_ok rfl hlen).trans (if_neg hne))

theorem start_succeeds (ha : s.answers = .ok d1 :: .ok d3 :: .ok d4 :: .ok Config.UNIT_ID_RESP :: rest) :
    ranTo .start 6 s
      { completed s 6 rest
          [.write [0x00] true, .delay 200, .clear true, .write Config.INQUIRY_CMD true,
           .read 16 (some Config.UNIT_ID_RESP)] with ss := .identified } :=
  have hread : ranTo .start 5 s (underway .start { s with ss := .awake } 5 rest
      [.write [0x00] true, .delay 200, .clear true, .write Config.INQUIRY_CMD true,
       .read 16 (some Config.UNIT_ID_RESP)]) :=
    ranTo_goes_on (v := { s with ss := .awake }) (start_inquired hf hss ha) hf.2 rfl
      ((attempt_expect_ok rfl rfl).trans (if_pos rfl))
  ranTo_completes (v := { s with ss := .identified }) (es := []) hread hf.2 rfl (by rw [List.append_nil]; rfl)

end

theorem close_completes {s : State} (hf : free s) (hss : s.ss = .identified) :
    ranTo .close 1 s { completed s 1 s.answers [] with ss := .closed } :=
  have hstart : ranTo .close 0 s (underway .close s 0 s.answers []) :=
    ranTo_starts (op := .close) hf (decide_eq_true hss) nofun
  ranTo_completes_silently (v := { s with ss := .closed }) hstart hf.2 rfl rfl

/-! ### A host's call, run to its end -/

theorem stepFor_eq_run (n : Nat) (s : State) : stepFor n s = Host.Core.run Sys2Proof.core n s := by
  induction n generalizing s with
  | zero => rfl
  | succ n ih =>
    have hstep : Sys2Proof.core.step s = step s := rfl
    simp only [stepFor, Host.Core.run, hstep]
    cases step s with
    | next t => exact ih t
    | fault | refused => rfl

/-- An idle block with no host action left waits. -/
theorem stepFor_idle {t : State} (hb : t.status.busy = false) (hturns : t.turns = []) (n : Nat) :
    stepFor n t = .next t := by
  have hstep : step t = .next t := by
    simp only [step, takeTurn, hturns]
    exact sequencerTurn_idle hb
  induction n with
  | zero => rfl
  | succ n ih => simp only [stepFor, hstep, ih]

theorem stepFor_add {m n : Nat} {s t : State} (h : stepFor m s = .next t) : stepFor (m + n) s = stepFor n t := by
  induction m generalizing s with
  | zero =>
    cases h
    rw [Nat.zero_add]
  | succ m ih =>
    rw [Nat.succ_add]
    simp only [stepFor] at h ⊢
    split at h
    case h_1 u hu => exact ih h
    case h_2 | h_3 => cases h

/-- A bare call runs its operation to its end, in at most six steps, and waits for the rest of them (R225). -/
theorem runCall_bareCall {op : HostOp} {k : Nat} {s t : State} (h : ranTo (opInstr op) k { s with turns := [] } t)
    (hk : k ≤ 6) (hb : t.status.busy = false) (hturns : t.turns = []) : runCall (bareCall op) s = .next t := by
  obtain ⟨u, hexec, hruns⟩ := h
  have hop : operationOf (((opCode op).setWidth 16 : Half).toNat % 256) = some op := by cases op <;> rfl
  have hwrite : step { s with turns := [.host (.write .op ((opCode op).setWidth 16))] } = .next u := by
    rw [step_write_operation rfl hop, ← hexec, exec_opInstr]
  obtain ⟨n, hn⟩ := Nat.exists_eq_add_of_le hk
  have hend : stepFor 6 u = .next t := by
    rw [hn, stepFor_add ((stepFor_eq_run k u).trans hruns), stepFor_idle hb hturns]
  have hcall : runCall (bareCall op) s =
      stepFor (1 + 6) { s with turns := [.host (.write .op ((opCode op).setWidth 16))] } := rfl
  rw [hcall, stepFor_add (t := u) (by simp only [stepFor, hwrite]), hend]

section
variable {s : State} {d1 d3 d4 : List Byte} {rest : List Answer} (hb : s.status.busy = false)
include hb

theorem runCall_start (hss : s.ss = .idle)
    (ha : s.answers = .ok d1 :: .ok d3 :: .ok d4 :: .ok Config.UNIT_ID_RESP :: rest) :
    runCall (bareCall .start) s = .next
      { completed { s with turns := [] } 0 rest
          [.write [0x00] true, .delay 200, .clear true, .write Config.INQUIRY_CMD true,
           .read 16 (some Config.UNIT_ID_RESP)] with ss := .identified } :=
  runCall_bareCall (start_succeeds (s := { s with turns := [] }) ⟨hb, rfl⟩ hss ha) le_rfl rfl rfl

theorem runCall_focus (ho : ordinary s) (ha : s.answers = .ok d1 :: .ok [0x06, 0x00] :: rest) :
    runCall (bareCall .focus) s = .next
      (completed { s with turns := [] } 0 rest
        [.write [0x01, 0x20, 0x86, 0, 0, 0, 0, 0, 0x03] true, .read 2 (some [0x06, 0x00])]) :=
  have hx := focus_exchanges (s := { s with turns := [] }) ⟨hb, rfl⟩ ho
  runCall_bareCall (hx.response_completes ha) (by decide) rfl rfl

theorem runCall_close (hss : s.ss = .identified) :
    runCall (bareCall .close) s = .next { completed { s with turns := [] } 0 s.answers [] with ss := .closed } :=
  runCall_bareCall (close_completes (s := { s with turns := [] }) ⟨hb, rfl⟩ hss) (by decide) rfl rfl

end

theorem runCalls_cons {c : HostCall} {cs : List HostCall} {s t : State} (h : runCall c s = .next t)
    (herr : t.status.err = false) : runCalls (c :: cs) s = runCalls cs t := by
  simp only [runCalls, h, herr]
  rfl

/-! ### The obligations -/

/-- Settles O20, end by end. -/
theorem startRunsTheHandshake : Obligations.StartRunsTheHandshake := by
  intro s d1 d3 d4 r rest hf hss
  refine ⟨start_wakeup_fails hf hss, start_clear_fails hf hss, start_inquiry_fails hf hss, start_read_fails hf hss,
    fun ha hlen => ⟨start_id_differs hf hss ha hlen, ?_⟩⟩
  rintro rfl
  exact start_succeeds hf hss ha

/-- Settles O23: CLOSE has one step, which writes `SS`; FastMode does not accept it. -/
theorem closeEndsTheSession : Obligations.CloseEndsTheSession := by
  intro s hf
  refine ⟨close_completes hf, fun hss => ?refused⟩
  case refused =>
    have hnot : s.ss ∉ acceptedStates .close := by
      rw [hss]
      decide
    exact (exec_opInstr .close s).trans (congrArg _ (writeOp_not_accepted hf.1 hnot))

/-- Settles O26: three bytes are too short for a frame, whatever they are. -/
theorem readOfNothingNeverSucceeds : Obligations.ReadOfNothingNeverSucceeds := by
  intro s d1 f rest hf ho hzero ha hlen
  have hasked : s.aLen.toNat = 0 := by rw [hzero]; rfl
  have hrejected := (readMem_exchanges hf ho).packet_rejected ha (by rw [hlen, hasked])
    (deserialize_of_length_lt (by omega))
  rwa [hzero] at hrejected

/-- Settles O59: the three operations one after the other, each from the state the one before it ends in. -/
theorem focusSubcommandSession : Obligations.FocusSubcommandSession := by
  intro s d1 d3 d4 d5 rest hb hss ha
  refine (runCalls_cons (runCall_start hb hss ha) rfl).trans ?_
  refine (runCalls_cons (runCall_focus rfl (.inl rfl) rfl) rfl).trans ?_
  refine (runCalls_cons (runCall_close rfl rfl) rfl).trans (congrArg _ ?_)
  simp only [completed, List.append_assoc]
  rfl

end Sys2Proof.Machine
end
